-- ==== Sys2Proof/Word.lean ====
section
/-! DEFINITION. The two word types of RXB (spec/00_scope.md R8): the FIFO byte and the 32-bit register. -/

namespace Sys2Proof

/-- A FIFO byte or producer-port datum: 8 bits (R8). -/
abbrev Byte := BitVec 8

/-- A register, a bus datum, the CRC accumulator or PATTERN: 32 bits (R8). -/
abbrev Word := BitVec 32

end Sys2Proof
end

