-- ==== Sys2Proof/Config.lean ====
section
/-! DEFINITION. What one RXB instance fixes and the spec leaves open: the FIFO capacity CAP (spec/00_scope.md R6). -/

namespace Sys2Proof

/-- How far CAP lies above its smallest legal value 4. It has no body: the spec gives CAP no value (R6, D9, I2),
so nothing can be proved of it but its range. DESIGN CHOICE, safe (notes/assumptions/4.md). -/
opaque Config.capExtra : Fin 65532

/-- CAP of the machine that `State.reset` describes: some number from 4 to 65535 (R6). -/
def Config.cap : Nat := Config.capExtra.val + 4

/-- The range R6 allows for CAP. -/
def Config.capLegal (cap : Nat) : Bool := decide (4 ≤ cap) && decide (cap ≤ 65535)

/-- The range R7 allows for BASE: a multiple of 32. -/
def Config.baseLegal (base : Nat) : Bool := base % 32 == 0

end Sys2Proof
end

