-- ==== Sys2Proof/Syntax.lean ====
section
/-! DEFINITION. The operations of RXB as syntax: one constructor per row of spec/opcode_table.json (R3, R18, R62, R71). -/

namespace Sys2Proof

/-- One operation of RXB (R18). The nine commands are the rows of R62, the eleven register accesses the rows of R71,
and `push` is the producer's step (R43, R107). An operand has exactly the width R8 gives it. -/
inductive Instr where
  /-- CMD word 0x00000000 (R110). -/
  | nop
  /-- CMD word 0x00000001 (R112). -/
  | clear
  /-- CMD word `0x00000002 | n << 16` (R111). -/
  | consume (n : BitVec 16)
  /-- CMD word `0x00000003 | i << 16` (R114). -/
  | peek (i : BitVec 16)
  /-- CMD word `0x00000004 | i << 16` (R115). -/
  | peekWord (i : BitVec 16)
  /-- CMD word 0x00000005 (R133). -/
  | find
  /-- CMD word 0x00000006 (R135). -/
  | syncStep
  /-- CMD word `0x00000007 | a << 16` (R94). -/
  | crcFifo (a : BitVec 16)
  /-- CMD word 0x00000008 (R93). -/
  | crcInit
  /-- Descriptor 0x04 (R117). -/
  | rdStatus
  /-- Descriptor 0x24 with write data `v` (R120). -/
  | wrStatus (v : Word)
  /-- Descriptor 0x08 (R121). -/
  | rdResult
  /-- Descriptor 0x0C (R122). -/
  | rdData
  /-- Descriptor 0x10 (R131). -/
  | rdPattern
  /-- Descriptor 0x30 with write data `v` (R132). -/
  | wrPattern (v : Word)
  /-- Descriptor 0x14 (R99). -/
  | rdCrcAcc
  /-- Descriptor 0x34 with write data `v` (R98). -/
  | wrCrcAcc (v : Word)
  /-- Descriptor 0x38 with write data `w` (R97). -/
  | wrCrcData (w : Word)
  /-- Descriptor 0x1C (R123). -/
  | rdCapacity
  /-- Descriptor 0x20 with write data `w`, a command word, legal or not (R60, R67). -/
  | wrCmd (w : Word)
  /-- The byte `b` on the producer port (R70, R107). -/
  | push (b : Byte)
  deriving DecidableEq, Repr

end Sys2Proof
end

