-- ==== Sys2Proof/WellFormed.lean ====
section
/-! DEFINITION. Which terms stand for something RXB can be given. Every operand's width is its type, and within the
width the spec forbids no operand value (R30, R31, R61, R70), so the check on `Instr` has nothing to refuse; what
can be ill-formed is an instance's parameters (R6, R7). -/

namespace Sys2Proof

/-- No value of an operand is illegal: ARG is any of 0 to 65535 (R61), a written register takes any 32-bit value
(R30, R31, R69, R97), CMD takes any word (R68) and a pushed byte is any byte (R70). -/
def Instr.wf : Instr → Bool
  | .nop => true
  | .clear => true
  | .consume _ => true
  | .peek _ => true
  | .peekWord _ => true
  | .find => true
  | .syncStep => true
  | .crcFifo _ => true
  | .crcInit => true
  | .rdStatus => true
  | .wrStatus _ => true
  | .rdResult => true
  | .rdData => true
  | .rdPattern => true
  | .wrPattern _ => true
  | .rdCrcAcc => true
  | .wrCrcAcc _ => true
  | .wrCrcData _ => true
  | .rdCapacity => true
  | .wrCmd _ => true
  | .push _ => true

/-- The two parameters of an instance (R6, R7). -/
structure Params where
  cap : Nat
  base : Nat
  deriving DecidableEq, Repr

/-- An instance's parameters are legal: 4 ≤ CAP ≤ 65535 and BASE a multiple of 32 (R6, R7). -/
def Params.wf (p : Params) : Bool := Config.capLegal p.cap && Config.baseLegal p.base

end Sys2Proof
end

