-- ==== Sys2Proof/Decode.lean ====
section
/-! DEFINITION. Decoding (spec/30_encoding.md): a register access and a command word to an instruction or a named
rejection, the encoder written from the same tables, and the rows of spec/opcode_table.json as data. RXB has three
kinds of operation (R60): a producer byte, a register access, and a command word, which travels as the write data of
an access to CMD. -/

namespace Sys2Proof

/-! ## Register accesses (R44, R45, R71, R72, R146) -/

/-- Why a register access ends in BusError: the names of R146. -/
inductive BusCause where
  /-- BE_WIDTH: 8 or 16 bits, or not all byte enables (R44). -/
  | width
  /-- BE_ALIGN: offset bits [1:0] not 0 (R45). -/
  | misaligned
  /-- BE_DIR: a read of CMD or CRC_DATA, or a write of RESULT, DATA or CAPACITY (R72). -/
  | direction
  deriving DecidableEq, Repr

/-- How many bits a bus access asks for (R44). -/
inductive AccessSize where
  | byte
  | half
  | word
  deriving DecidableEq, Repr

/-- One bus access as it reaches RXB's port: the direction, the 5-bit offset from BASE (R8), the size and byte
enables it asks for (R44), and the write data. A read's `data` is not looked at. -/
structure Access where
  write : Bool
  off : BitVec 5
  size : AccessSize
  enables : BitVec 4
  data : Word
  deriving DecidableEq, Repr

/-- A full-word access: 32 bits with all four byte enables, the only legal width (R44). -/
def Access.fullWord (a : Access) : Bool := a.size == .word && a.enables == 0xF#4

/-- `desc = W << 5 | off` (R71). -/
def Access.desc (a : Access) : BitVec 6 := BitVec.ofBool a.write ++ a.off

/-- The register-access table: R71's eleven legal descriptors, R72's five of the wrong direction, and the misaligned
rest (R45, checked before the direction: R151). -/
def decodeDesc (desc : BitVec 6) (data : Word) : Except BusCause Instr :=
  if desc.extractLsb' 0 2 ≠ 0 then .error .misaligned
  else match desc with
    | 0x20#6 => .ok (.wrCmd data)
    | 0x04#6 => .ok .rdStatus
    | 0x24#6 => .ok (.wrStatus data)
    | 0x08#6 => .ok .rdResult
    | 0x0C#6 => .ok .rdData
    | 0x10#6 => .ok .rdPattern
    | 0x30#6 => .ok (.wrPattern data)
    | 0x14#6 => .ok .rdCrcAcc
    | 0x34#6 => .ok (.wrCrcAcc data)
    | 0x38#6 => .ok (.wrCrcData data)
    | 0x1C#6 => .ok .rdCapacity
    | _ => .error .direction

/-- Decode one bus access: the width check first, then alignment, then direction (R151). -/
def decodeAccess (a : Access) : Except BusCause Instr :=
  if a.fullWord then decodeDesc a.desc a.data else .error .width

/-! ## Command words (R60 to R68) -/

/-- The nine commands of the opcode map (R62). -/
inductive Command where
  | nop
  | clear
  | consume (n : BitVec 16)
  | peek (i : BitVec 16)
  | peekWord (i : BitVec 16)
  | find
  | syncStep
  | crcFifo (a : BitVec 16)
  | crcInit
  deriving DecidableEq, Repr

/-- A command as the instruction of its row. -/
def Command.toInstr : Command → Instr
  | .nop => .nop
  | .clear => .clear
  | .consume n => .consume n
  | .peek i => .peek i
  | .peekWord i => .peekWord i
  | .find => .find
  | .syncStep => .syncStep
  | .crcFifo a => .crcFifo a
  | .crcInit => .crcInit

/-- Whether a command takes an argument; every other one requires ARG = 0 (R61, R63). -/
def Command.takesArg : Command → Bool
  | .nop => false
  | .clear => false
  | .consume _ => true
  | .peek _ => true
  | .peekWord _ => true
  | .find => false
  | .syncStep => false
  | .crcFifo _ => true
  | .crcInit => false

/-- Why a command word is illegal, in the order R67 checks. -/
inductive CmdIllegal where
  /-- OP is 0x9 to 0xF (R65). -/
  | reservedOp
  /-- RSV is not 0 (R64). -/
  | reservedBits
  /-- ARG is not 0 and OP takes no argument (R63). -/
  | strayArg
  deriving DecidableEq, Repr

/-- OP, bits 3:0 of a command word (R60). -/
def cmdOp (w : Word) : BitVec 4 := w.extractLsb' 0 4

/-- RSV, bits 15:4 of a command word (R60). -/
def cmdRsv (w : Word) : BitVec 12 := w.extractLsb' 4 12

/-- ARG, bits 31:16 of a command word (R60, R61). -/
def cmdArg (w : Word) : BitVec 16 := w.extractLsb' 16 16

/-- A command that takes an argument is legal when RSV is 0 (R64). -/
def checkRsv (w : Word) (c : Command) : Except CmdIllegal Command :=
  if cmdRsv w = 0 then .ok c else .error .reservedBits

/-- A command that takes no argument is legal when RSV and ARG are 0 (R63, R64). -/
def checkNoArg (w : Word) (c : Command) : Except CmdIllegal Command :=
  if cmdRsv w ≠ 0 then .error .reservedBits
  else if cmdArg w ≠ 0 then .error .strayArg
  else .ok c

/-- Decode a command word: total, OP first, then RSV, then ARG (R62, R67, R68). -/
def decodeCommand (w : Word) : Except CmdIllegal Command :=
  match cmdOp w with
  | 0x0#4 => checkNoArg w .nop
  | 0x1#4 => checkNoArg w .clear
  | 0x2#4 => checkRsv w (.consume (cmdArg w))
  | 0x3#4 => checkRsv w (.peek (cmdArg w))
  | 0x4#4 => checkRsv w (.peekWord (cmdArg w))
  | 0x5#4 => checkNoArg w .find
  | 0x6#4 => checkNoArg w .syncStep
  | 0x7#4 => checkRsv w (.crcFifo (cmdArg w))
  | 0x8#4 => checkNoArg w .crcInit
  | _ => .error .reservedOp

/-! ## The three encoded forms, their decoder and the encoder -/

/-- An encoded operation, in one of the three formats of spec/opcode_table.json (R60). -/
inductive Encoded where
  /-- A command word (format CMD). -/
  | cmd (w : Word)
  /-- A register-access descriptor and the bus data of a write (format BUS). -/
  | bus (desc : BitVec 6) (data : Word)
  /-- A producer-port byte (format PORT). -/
  | port (b : Byte)
  deriving DecidableEq, Repr

/-- Why an encoded operation is no instruction. -/
inductive DecodeError where
  | busError (c : BusCause)
  | illegalCommand (c : CmdIllegal)
  deriving DecidableEq, Repr

/-- Decode an encoded operation. A `bus` form stands for a full-word access. Every port byte is legal (R70). -/
def decode : Encoded → Except DecodeError Instr
  | .cmd w =>
    match decodeCommand w with
    | .ok c => .ok c.toInstr
    | .error e => .error (.illegalCommand e)
  | .bus desc data =>
    match decodeDesc desc data with
    | .ok i => .ok i
    | .error e => .error (.busError e)
  | .port b => .ok (.push b)

/-- `OP | RSV << 4 | ARG << 16` with RSV = 0 (R60). -/
def cmdWord (op : BitVec 4) (arg : BitVec 16) : Word :=
  op.setWidth 32 ||| arg.setWidth 32 <<< 16

/-- The encoding of an instruction, from R62, R70 and R71. A read carries no data. -/
def encode : Instr → Encoded
  | .nop => .cmd (cmdWord 0x0 0)
  | .clear => .cmd (cmdWord 0x1 0)
  | .consume n => .cmd (cmdWord 0x2 n)
  | .peek i => .cmd (cmdWord 0x3 i)
  | .peekWord i => .cmd (cmdWord 0x4 i)
  | .find => .cmd (cmdWord 0x5 0)
  | .syncStep => .cmd (cmdWord 0x6 0)
  | .crcFifo a => .cmd (cmdWord 0x7 a)
  | .crcInit => .cmd (cmdWord 0x8 0)
  | .rdStatus => .bus 0x04 0
  | .wrStatus v => .bus 0x24 v
  | .rdResult => .bus 0x08 0
  | .rdData => .bus 0x0C 0
  | .rdPattern => .bus 0x10 0
  | .wrPattern v => .bus 0x30 v
  | .rdCrcAcc => .bus 0x14 0
  | .wrCrcAcc v => .bus 0x34 v
  | .wrCrcData w => .bus 0x38 w
  | .rdCapacity => .bus 0x1C 0
  | .wrCmd w => .bus 0x20 w
  | .push b => .port b

/-! ## The opcode table as data (R68, R71) -/

/-- The format column of spec/opcode_table.json. -/
inductive Format where
  | cmd
  | bus
  | port
  deriving DecidableEq, Repr

/-- A row's format, match and mask, as spec/opcode_table.json gives them. -/
structure TableRow where
  format : Format
  value : Word
  mask : Word
  deriving DecidableEq, Repr

/-- The format of an encoded operation. -/
def Encoded.format : Encoded → Format
  | .cmd _ => .cmd
  | .bus _ _ => .bus
  | .port _ => .port

/-- The bits of an encoded operation that the table numbers: the command word, the descriptor, or the byte. -/
def Encoded.bits : Encoded → Word
  | .cmd w => w
  | .bus desc _ => desc.setWidth 32
  | .port b => b.setWidth 32

/-- `(word & mask) = match`, in the row's own format (R68). -/
def TableRow.accepts (r : TableRow) (e : Encoded) : Bool :=
  r.format == e.format && e.bits &&& r.mask == r.value

/-- The row of spec/opcode_table.json that each instruction stands on. -/
def Instr.tableRow : Instr → TableRow
  | .nop => ⟨.cmd, 0x00000000, 0xFFFFFFFF⟩
  | .clear => ⟨.cmd, 0x00000001, 0xFFFFFFFF⟩
  | .consume _ => ⟨.cmd, 0x00000002, 0x0000FFFF⟩
  | .peek _ => ⟨.cmd, 0x00000003, 0x0000FFFF⟩
  | .peekWord _ => ⟨.cmd, 0x00000004, 0x0000FFFF⟩
  | .find => ⟨.cmd, 0x00000005, 0xFFFFFFFF⟩
  | .syncStep => ⟨.cmd, 0x00000006, 0xFFFFFFFF⟩
  | .crcFifo _ => ⟨.cmd, 0x00000007, 0x0000FFFF⟩
  | .crcInit => ⟨.cmd, 0x00000008, 0xFFFFFFFF⟩
  | .rdStatus => ⟨.bus, 0x04, 0x3F⟩
  | .wrStatus _ => ⟨.bus, 0x24, 0x3F⟩
  | .rdResult => ⟨.bus, 0x08, 0x3F⟩
  | .rdData => ⟨.bus, 0x0C, 0x3F⟩
  | .rdPattern => ⟨.bus, 0x10, 0x3F⟩
  | .wrPattern _ => ⟨.bus, 0x30, 0x3F⟩
  | .rdCrcAcc => ⟨.bus, 0x14, 0x3F⟩
  | .wrCrcAcc _ => ⟨.bus, 0x34, 0x3F⟩
  | .wrCrcData _ => ⟨.bus, 0x38, 0x3F⟩
  | .rdCapacity => ⟨.bus, 0x1C, 0x3F⟩
  | .wrCmd _ => ⟨.bus, 0x20, 0x3F⟩
  | .push _ => ⟨.port, 0x00, 0x00⟩

/-- The table's nine command rows. -/
def commandRows : List TableRow :=
  [Instr.nop, .clear, .consume 0, .peek 0, .peekWord 0, .find, .syncStep, .crcFifo 0, .crcInit].map Instr.tableRow

/-- The table's eleven register-access rows and its producer row. -/
def accessRows : List TableRow :=
  [Instr.rdStatus, .wrStatus 0, .rdResult, .rdData, .rdPattern, .wrPattern 0, .rdCrcAcc, .wrCrcAcc 0, .wrCrcData 0,
    .rdCapacity, .wrCmd 0, .push 0].map Instr.tableRow

/-- All 21 rows. -/
def tableRows : List TableRow := commandRows ++ accessRows

/-! ## Words numbered as the opcode table numbers them -/

/-- Whether a 6-bit number is one of R71's legal descriptors. -/
def legalDesc (desc : BitVec 6) : Bool :=
  match decodeDesc desc 0 with
  | .ok _ => true
  | .error _ => false

/-- Read `w`, a number of `nbits` bits, in the format its length tells: 32 bits are a command word. Of the numbers of
at most 8 bits, R71's eleven legal descriptors are register accesses (with bus data 0) and every other one is a
producer byte: the table gives both formats one byte and no bit to tell them apart. DESIGN CHOICE, safe
(notes/assumptions/6.md): no step of the machine reads this. -/
def tableForm (nbits w : Nat) : Option Encoded :=
  if nbits = 32 then some (.cmd (BitVec.ofNat 32 w))
  else if nbits ≤ 8 then
    if w < 64 ∧ legalDesc (BitVec.ofNat 6 w) = true then some (.bus (BitVec.ofNat 6 w) 0)
    else some (.port (BitVec.ofNat 8 w))
  else none

/-- The instruction the decoder reads from a word of the opcode table. -/
def decodeTableWord (nbits w : Nat) : Option Instr :=
  match tableForm nbits w with
  | none => none
  | some e =>
    match decode e with
    | .ok i => some i
    | .error _ => none

end Sys2Proof
end

