-- ==== Sys2Proof/Machine/State.lean ====
section
/-! DEFINITION. The state of RXB as plain data (spec/10_state.md R21), with the parameter CAP and the two ports'
side of the interface, and the state after reset (R35, R165). -/

namespace Sys2Proof.Machine

/-- What the environment presents next at RXB's ports (R5, R43, R52, R165, R166). -/
inductive Event where
  /-- The producer delivers a byte (R43). -/
  | push (b : Byte)
  /-- The master makes a bus access (R40, R44). -/
  | access (a : Access)
  /-- The reset input is asserted (R165). -/
  | assertReset
  /-- The reset input is released (R166). -/
  | releaseReset
  deriving DecidableEq, Repr

/-- What the bus answered to the master's latest access. An access that ends in BusError has no entry here: it is a
fault of the step (R145). -/
inductive Response where
  /-- No access since reset. -/
  | none
  /-- The OK response to a write (R145, R147). -/
  | writeOk
  /-- The OK response to a read, with its 32 bits of data (R15). -/
  | readData (v : Word)
  deriving DecidableEq, Repr

/-- Why a step stops with a fault. -/
inductive Fault where
  /-- The master's access ended in BusError: raised by `fetch` for an access that is not a full word, not aligned or
  of the wrong direction (R145, R146). RXB's state is unchanged. Safe: the spec makes it a fault of the master's
  step (R162, I6), and no claim can be proved about a value the read never had (I5). -/
  | busError (c : BusCause)
  deriving DecidableEq, Repr

/-- Why a step gives no meaning. -/
inductive Refusal where
  /-- An instruction without a meaning in this model. No arm raises it: every instruction has its meaning. Safe. -/
  | notModelled (mnemonic : String)
  /-- A register access while reset is asserted: raised by `fetch`. The spec gives such an access no meaning: "the
  master must not issue one" (R166, I12). Safe: nothing can be proved of a run that makes one. -/
  | accessDuringReset
  deriving DecidableEq, Repr

/-- The state. The first seven fields are the whole architected state of R21; `cap` is the instance's parameter
(R6); the last three are the model's own, for the ports: the reset input's level, the bus's latest answer, and the
operations still to come in their one total order (R52). -/
structure State where
  /-- The FIFO content, oldest byte first (R23). -/
  buf : List Byte
  /-- The sticky overflow flag (R27). -/
  ovf : Bool
  /-- RESULT.CODE (R28). -/
  rcode : BitVec 4
  /-- RESULT.VALUE (R28). -/
  rvalue : BitVec 16
  /-- DATA (R29). -/
  data : Word
  /-- PATTERN (R30). -/
  pattern : Word
  /-- CRC_ACC (R31). -/
  crcAcc : Word
  /-- CAP, a parameter that no operation writes (R6, R33; notes/assumptions/4.md). -/
  cap : Nat
  /-- Whether the reset input is asserted (R166; notes/assumptions/7.md). -/
  inReset : Bool
  /-- The bus's answer to the latest access (R15, R145; notes/assumptions/3.md). -/
  response : Response
  /-- The operations still to come, in linearization order (R22, R52; notes/assumptions/2.md). -/
  pending : List Event
  deriving DecidableEq, Repr

/-- The state right after reset, for an instance of capacity `cap`: the values of R35 and R165, no access answered
and no operation waiting (R168). -/
def State.resetWith (cap : Nat) : State where
  buf := []
  ovf := false
  rcode := 0
  rvalue := 0
  data := 0x00000000
  pattern := 0x00400004
  crcAcc := 0xFFFFFFFF
  cap := cap
  inReset := false
  response := .none
  pending := []

/-- The state right after reset (R35, R165), CAP being the instance's (R6). -/
def State.reset : State := State.resetWith Config.cap

end Sys2Proof.Machine
end

