-- ==== Sys2Proof/Machine/Flags.lean ====
section
/-! DEFINITION. The flags and result codes: STATUS and RESULT as the master reads them (R26, R28), the result codes
(R66), and the write-1-to-clear of OVF (R69). -/

namespace Sys2Proof.Machine

/-- The result codes RXB writes (R66). -/
inductive ResultCode where
  | ok
  | wait
  | found
  | notFound
  | errRange
  | errCmd
  deriving DecidableEq, Repr

/-- A result code's number (R66). -/
def ResultCode.bits : ResultCode → BitVec 4
  | .ok => 0
  | .wait => 1
  | .found => 2
  | .notFound => 3
  | .errRange => 4
  | .errCmd => 5

/-- A one-bit flag at bit `k` of a register. -/
def flagBit (b : Bool) (k : Nat) : Word := (BitVec.ofBool b).setWidth 32 <<< k

/-- EMPTY: `len = 0` (R26). -/
def State.isEmpty (s : State) : Bool := s.buf.length == 0

/-- FULL: `len = CAP` (R26). -/
def State.isFull (s : State) : Bool := s.buf.length == s.cap

/-- STATUS as read: `zext_32(len[15:0]) | OVF << 16 | EMPTY << 17 | FULL << 18` (R26, R117). -/
def State.statusWord (s : State) : Word :=
  (BitVec.ofNat 16 s.buf.length).setWidth 32 ||| flagBit s.ovf 16 ||| flagBit s.isEmpty 17 ||| flagBit s.isFull 18

/-- RESULT as read: `zext_32(RCODE) | zext_32(RVALUE) << 16` (R28, R121). -/
def State.resultWord (s : State) : Word := s.rcode.setWidth 32 ||| s.rvalue.setWidth 32 <<< 16

/-- CAPACITY as read: `zext_32(CAP[15:0])` (R33, R123). -/
def State.capacityWord (s : State) : Word := (BitVec.ofNat 16 s.cap).setWidth 32

/-- OVF after a STATUS write of `v`: bit 16 of `v` clears it, the other bits are ignored (R69, R120). -/
def ovfAfterStatusWrite (v : Word) (ovf : Bool) : Bool := ovf && !v.getLsbD 16

end Sys2Proof.Machine
end

