-- ==== Sys2Proof/Machine/Operands.lean ====
section
/-! DEFINITION. The operand forms: little-endian assembly of bytes (R13, R47), the bytes and words a head-relative
index names (R12, R48, R114, R115), and the truncated CRC length (R95). -/

namespace Sys2Proof.Machine

/-- `LE32(b0, b1, b2, b3)` (R13). -/
def le32 (b0 b1 b2 b3 : Byte) : Word :=
  b0.setWidth 32 ||| b1.setWidth 32 <<< 8 ||| b2.setWidth 32 <<< 16 ||| b3.setWidth 32 <<< 24

/-- `byte_k(v) = (v >> (8*k)) & 0xFF` (R13). -/
def byteOf (v : Word) (k : Nat) : Byte := v.extractLsb' (8 * k) 8

/-- The byte at head-relative index `i`, if `i < len` (R12, R114). -/
def byteAt (buf : List Byte) (i : Nat) : Option Byte := buf[i]?

/-- The little-endian word at head-relative index `i`, of any alignment, if `i + 4 <= len` (R48, R115). -/
def wordAt (buf : List Byte) (i : Nat) : Option Word :=
  match buf.drop i with
  | b0 :: b1 :: b2 :: b3 :: _ => some (le32 b0 b1 b2 b3)
  | _ => none

/-- The consecutive little-endian words of a byte sequence (R47, R91). A tail of 1 to 3 bytes forms no word. -/
def wordsOf : List Byte → List Word
  | b0 :: b1 :: b2 :: b3 :: rest => le32 b0 b1 b2 b3 :: wordsOf rest
  | _ => []

/-- `m := a & ~3`, the CRC length a command covers (R95). -/
def coveredLength (a : BitVec 16) : Nat := (a &&& 0xFFFC#16).toNat

/-- The number of bytes a removal of `n` takes: `min(n, len)` on naturals (R111, R124). -/
def removable (n : Nat) (buf : List Byte) : Nat := min n buf.length

end Sys2Proof.Machine
end

