-- ==== Sys2Proof/Machine/Ops.lean ====
section
/-! DEFINITION. The operations the meanings share: the FIFO's two ends (R23, R107), the result of a command (R28,
R147), the bus's answers (R145), reset (R165), and the platform's way to the register window (R7, R15, R41). RXB
has no trap: no operation saves a state or enters a handler (R153, R154). -/

namespace Sys2Proof.Machine

/-- What a meaning answers. -/
abbrev Result := Host.Outcome State Fault Refusal

/-- Remove the first `k` bytes; the byte at index `i >= k` moves to `i - k` (R23). -/
def State.removeHead (s : State) (k : Nat) : State := { s with buf := s.buf.drop k }

/-- A byte arrives: it is appended, or it finds the FIFO full, and then the FIFO empties, OVF is set and the byte is
lost (R107). -/
def State.receive (s : State) (b : Byte) : State :=
  if s.buf.length < s.cap then { s with buf := s.buf ++ [b] } else { s with buf := [], ovf := true }

/-- `RESULT <- (code, value)` (R14, R28). -/
def State.setResult (s : State) (code : ResultCode) (value : Nat) : State :=
  { s with rcode := code.bits, rvalue := BitVec.ofNat 16 value }

/-- The bus answers the access. -/
def State.respond (s : State) (r : Response) : State := { s with response := r }

/-- A command ends: it writes RESULT, and its CMD write is answered OK whatever the code (R147, R175). -/
def State.finishCommand (s : State) (code : ResultCode) (value : Nat) : Result :=
  .next ((s.setResult code value).respond .writeOk)

/-- A register read ends: the bus carries the value, and nothing else changes (R49). -/
def State.finishRead (s : State) (v : Word) : Result := .next (s.respond (.readData v))

/-- A register write other than CMD ends with the OK response. -/
def State.finishWrite (s : State) : Result := .next (s.respond .writeOk)

/-- Reset: every piece of state takes the value of R35 at once, on the producer's and the master's side together
(R165). CAP and the operations still to come are not RXB's state and stay. -/
def State.takeReset (s : State) (level : Bool) : State :=
  { State.resetWith s.cap with inReset := level, pending := s.pending }

/-- The value a full-word read of the register at `off` returns, for the six readable registers (R36). -/
def State.registerAt (s : State) (off : BitVec 5) : Option Word :=
  match off with
  | 0x04#5 => some s.statusWord
  | 0x08#5 => some s.resultWord
  | 0x0C#5 => some s.data
  | 0x10#5 => some s.pattern
  | 0x14#5 => some s.crcAcc
  | 0x1C#5 => some s.capacityWord
  | _ => none

/-- The byte a byte-addressed platform sees at offset `off` of the window: `byte_k` of the register, `k` being
`off[1:0]` (R46). A view only: no access reads one byte (R44). -/
def State.windowByte (s : State) (off : BitVec 5) : Option Byte :=
  (s.registerAt (off &&& 0x1C#5)).map fun v => byteOf v (off &&& 0x03#5).toNat

/-- The offset within the 32-byte window at `base` that a byte address names (R7, R40, R41). An address outside the
window is not part of RXB: its access never reaches this block. -/
def busOffset (base addr : Nat) : Option (BitVec 5) :=
  if base ≤ addr ∧ addr < base + 32 then some (BitVec.ofNat 5 (addr - base)) else none

/-- `MemRead(addr, 4)` as the event it is at RXB's port, for a window at `base` (R15). -/
def memRead (base addr : Nat) : Option Event :=
  (busOffset base addr).map fun off => .access ⟨false, off, .word, 0xF, 0⟩

/-- `MemWrite(addr, 4, v)` as the event it is at RXB's port, for a window at `base` (R15). -/
def memWrite (base addr : Nat) (v : Word) : Option Event :=
  (busOffset base addr).map fun off => .access ⟨true, off, .word, 0xF, v⟩

/-- The event by which an encoded operation reaches RXB: a command word as a write of CMD (R60), a descriptor as a
full-word access (R71), a byte on the producer port (R70). -/
def eventOf : Encoded → Event
  | .cmd w => .access ⟨true, 0x00, .word, 0xF, w⟩
  | .bus desc data => .access ⟨desc.getLsbD 5, desc.extractLsb' 0 5, .word, 0xF, data⟩
  | .port b => .push b

end Sys2Proof.Machine
end

