-- ==== Sys2Proof/Machine/CrcUnit.lean ====
section
/-! DEFINITION. The CRC unit's functions (spec/40_crc.md): the nibble table, the word step, its bitwise form, and the
CRC of a byte region. -/

namespace Sys2Proof.Machine

/-- The generator polynomial P, normal form, x^32 implicit (R86). -/
def crcPoly : Word := 0x04C11DB7

/-- The seed (R90). -/
def crcSeed : Word := 0xFFFFFFFF

/-- One bit of the reduction, most significant bit first: `if c[31] = 1 then (c << 1) ^ P else (c << 1)` (R86, R88). -/
def crcBit (c : Word) : Word := if c.msb then (c <<< 1) ^^^ crcPoly else c <<< 1

/-- T[n] as R86 defines it from P: `n << 28`, reduced by four bits. -/
def nibbleEntry (n : BitVec 4) : Word := crcBit^[4] (n.setWidth 32 <<< 28)

/-- The 16-word ROM of R86, T[0] to T[15]. -/
def crcTable : Vector Word 16 :=
  #v[0x00000000, 0x04C11DB7, 0x09823B6E, 0x0D4326D9, 0x130476DC, 0x17C56B6B, 0x1A864DB2, 0x1E475005,
    0x2608EDB8, 0x22C9F00F, 0x2F8AD6D6, 0x2B4BCB61, 0x350C9B64, 0x31CD86D3, 0x3C8EA00A, 0x384FBDBD]

/-- T[n] (R86). -/
def nibbleTable (n : BitVec 4) : Word := crcTable[n.toNat]'n.isLt

/-- One nibble reduction: `(c << 4) ^ T[c[31:28]]` (R87). -/
def crcNibble (c : Word) : Word := (c <<< 4) ^^^ nibbleTable (c.extractLsb' 28 4)

/-- `CrcWord(acc, w)`: eight nibble reductions of `acc ^ w`, no final inversion (R87, R89). -/
def crcWord (acc w : Word) : Word := crcNibble^[8] (acc ^^^ w)

/-- `BitCrc(c)`: 32 one-bit reductions (R88). -/
def bitCrc (c : Word) : Word := crcBit^[32] c

/-- `CrcBytes(s, m)`: the CRC of the first `m` bytes, `m` a multiple of 4, from the seed, in little-endian words (R91). -/
def crcBytes (bytes : List Byte) (m : Nat) : Word := (wordsOf (bytes.take m)).foldl crcWord crcSeed

end Sys2Proof.Machine
end

