-- ==== Sys2Proof/Machine/Crc.lean ====
section
/-! DEFINITION. The CRC unit's operations (spec/40_crc.md section 2). -/

namespace Sys2Proof.Machine

/-- CRC_INIT (R93). -/
def execCrcInit (s : State) : Result := { s with crcAcc := crcSeed }.finishCommand .ok 0

/-- CRC_FIFO: the CRC of the first `a & ~3` bytes held, from the seed, without consuming them; ERR_RANGE if fewer are
held (R94, R95, R96). -/
def execCrcFifo (a : BitVec 16) (s : State) : Result :=
  if coveredLength a ≤ s.buf.length then
    { s with crcAcc := crcBytes s.buf (coveredLength a) }.finishCommand .ok (coveredLength a)
  else
    s.finishCommand .errRange 0

/-- CRC_DATA write: one word step of the accumulator (R97). -/
def execWrCrcData (w : Word) (s : State) : Result := { s with crcAcc := crcWord s.crcAcc w }.finishWrite

/-- CRC_ACC write: the accumulator is loaded (R98). -/
def execWrCrcAcc (v : Word) (s : State) : Result := { s with crcAcc := v }.finishWrite

/-- CRC_ACC read: the raw accumulator (R99). -/
def execRdCrcAcc (s : State) : Result := s.finishRead s.crcAcc

end Sys2Proof.Machine
end

