-- ==== Sys2Proof/Machine/Fifo.lean ====
section
/-! DEFINITION. The FIFO's operations (spec/41_fifo.md): the producer's PUSH, the consumer's commands, and the
register accesses that show the FIFO. -/

namespace Sys2Proof.Machine

/-- PUSH: the producer is never stalled and gets no answer (R43, R107). -/
def execPush (b : Byte) (s : State) : Result := .next (s.receive b)

/-- NOP: writes RESULT and nothing else (R110). -/
def execNop (s : State) : Result := s.finishCommand .ok 0

/-- CONSUME: removes the first `min(n, len)` bytes and reports how many (R111). -/
def execConsume (n : BitVec 16) (s : State) : Result :=
  (s.removeHead (removable n.toNat s.buf)).finishCommand .ok (removable n.toNat s.buf)

/-- CLEAR: discards every byte and reports how many; OVF stays (R112). -/
def execClear (s : State) : Result := { s with buf := [] }.finishCommand .ok s.buf.length

/-- PEEK: DATA takes the zero-extended byte at index `i`, or ERR_RANGE and DATA unchanged (R114). -/
def execPeek (i : BitVec 16) (s : State) : Result :=
  match byteAt s.buf i.toNat with
  | some b => { s with data := b.setWidth 32 }.finishCommand .ok 0
  | none => s.finishCommand .errRange 0

/-- PEEK_WORD: DATA takes the little-endian word at index `i`, or ERR_RANGE and DATA unchanged (R115). -/
def execPeekWord (i : BitVec 16) (s : State) : Result :=
  match wordAt s.buf i.toNat with
  | some w => { s with data := w }.finishCommand .ok 0
  | none => s.finishCommand .errRange 0

/-- STATUS read (R117). -/
def execRdStatus (s : State) : Result := s.finishRead s.statusWord

/-- STATUS write: bit 16 of `v` clears OVF (R120). -/
def execWrStatus (v : Word) (s : State) : Result := { s with ovf := ovfAfterStatusWrite v s.ovf }.finishWrite

/-- RESULT read (R121). -/
def execRdResult (s : State) : Result := s.finishRead s.resultWord

/-- DATA read (R122). -/
def execRdData (s : State) : Result := s.finishRead s.data

/-- CAPACITY read (R123). -/
def execRdCapacity (s : State) : Result := s.finishRead s.capacityWord

end Sys2Proof.Machine
end

