-- ==== Sys2Proof/Machine/Scan.lean ====
section
/-! DEFINITION. The match predicate and the scan of the synchronizer (R130). -/

namespace Sys2Proof.Machine

/-- `Match(i)`: `i + 4 <= len` and, for k in 0..3, `buf[i+k] = byte_k(PATTERN)` (R130). -/
def matchAt (pattern : Word) (buf : List Byte) (i : Nat) : Bool :=
  decide (i + 4 ≤ buf.length) && (List.range 4).all fun k => byteAt buf (i + k) == some (byteOf pattern k)

/-- `Scan()`: the least `i` with `Match(i)`, if one exists. Every index 0 to len - 4 is a candidate; with fewer than
four bytes there is none (R130). -/
def scan (pattern : Word) (buf : List Byte) : Option Nat :=
  (List.range (buf.length - 3)).find? (matchAt pattern buf)

end Sys2Proof.Machine
end

