-- ==== Sys2Proof/Machine/Sync.lean ====
section
/-! DEFINITION. The synchronizer's operations (spec/42_sync.md). -/

namespace Sys2Proof.Machine

/-- PATTERN read (R131). -/
def execRdPattern (s : State) : Result := s.finishRead s.pattern

/-- PATTERN write (R132). -/
def execWrPattern (v : Word) (s : State) : Result := { s with pattern := v }.finishWrite

/-- FIND: reports the scan, and changes no byte (R133). -/
def execFind (s : State) : Result :=
  match scan s.pattern s.buf with
  | none => s.finishCommand .notFound 0
  | some r => s.finishCommand .found r

/-- SYNC_STEP: WAIT with fewer than 4 bytes; else discard the bytes before the first match, or everything if there
is none, and report how many were discarded (R135, R136). -/
def execSyncStep (s : State) : Result :=
  if s.buf.length < 4 then s.finishCommand .wait 0
  else
    match scan s.pattern s.buf with
    | none => { s with buf := [] }.finishCommand .notFound s.buf.length
    | some r => (s.removeHead r).finishCommand .found r

end Sys2Proof.Machine
end

