-- ==== Sys2Proof/Machine/Command.lean ====
section
/-! DEFINITION. A write of CMD: the command word's legality is checked, and then the command executes (R25, R60, R67). -/

namespace Sys2Proof.Machine

/-- The effect of a legal command (R62). -/
def runCommand (c : Command) (s : State) : Result :=
  match c with
  | .nop => execNop s
  | .clear => execClear s
  | .consume n => execConsume n s
  | .peek i => execPeek i s
  | .peekWord i => execPeekWord i s
  | .find => execFind s
  | .syncStep => execSyncStep s
  | .crcFifo a => execCrcFifo a s
  | .crcInit => execCrcInit s

/-- WR_CMD: an illegal word completes with (ERR_CMD, 0) and changes nothing else, a legal one executes (R67, R147). -/
def execWrCmd (w : Word) (s : State) : Result :=
  match decodeCommand w with
  | .error _ => s.finishCommand .errCmd 0
  | .ok c => runCommand c s

end Sys2Proof.Machine
end

