-- ==== Sys2Proof/Machine/Dispatch.lean ====
section
/-! DEFINITION. One arm per instruction: each calls its meaning. -/

namespace Sys2Proof.Machine

/-- What executing an instruction does. -/
def exec (i : Instr) (s : State) : Host.Outcome State Fault Refusal :=
  match i with
  | .nop => Sys2Proof.Machine.execNop s
  | .clear => Sys2Proof.Machine.execClear s
  | .consume n => Sys2Proof.Machine.execConsume n s
  | .peek x => Sys2Proof.Machine.execPeek x s
  | .peekWord x => Sys2Proof.Machine.execPeekWord x s
  | .find => Sys2Proof.Machine.execFind s
  | .syncStep => Sys2Proof.Machine.execSyncStep s
  | .crcFifo a => Sys2Proof.Machine.execCrcFifo a s
  | .crcInit => Sys2Proof.Machine.execCrcInit s
  | .rdStatus => Sys2Proof.Machine.execRdStatus s
  | .wrStatus v => Sys2Proof.Machine.execWrStatus v s
  | .rdResult => Sys2Proof.Machine.execRdResult s
  | .rdData => Sys2Proof.Machine.execRdData s
  | .rdPattern => Sys2Proof.Machine.execRdPattern s
  | .wrPattern v => Sys2Proof.Machine.execWrPattern v s
  | .rdCrcAcc => Sys2Proof.Machine.execRdCrcAcc s
  | .wrCrcAcc v => Sys2Proof.Machine.execWrCrcAcc v s
  | .wrCrcData w => Sys2Proof.Machine.execWrCrcData w s
  | .rdCapacity => Sys2Proof.Machine.execRdCapacity s
  | .wrCmd w => Sys2Proof.Machine.execWrCmd w s
  | .push b => Sys2Proof.Machine.execPush b s

end Sys2Proof.Machine
end

