-- ==== Sys2Proof/Machine/Fetch.lean ====
section
/-! DEFINITION. Where the next operation comes from: the first of the pending events, decoded, with the reset input's
gate before it (R22, R52, R151, R165, R166). RXB fetches no instruction from a memory (R22, R56). -/

namespace Sys2Proof.Machine

/-- What the head of the pending events asks of the step. -/
inductive Fetched where
  /-- Nothing is waiting: RXB is idle (R168). -/
  | idle
  /-- The instruction to execute, and the state with its event taken. -/
  | run (i : Instr) (s : State)
  /-- The reset input acted, or kept an operation out: the state after. -/
  | done (s : State)
  /-- The access ends in a fault. -/
  | fault (f : Fault)
  /-- The access has no meaning. -/
  | refused (r : Refusal)
  deriving DecidableEq, Repr

/-- The head event against the rest of the state `s`, from which it has been taken. While reset is asserted a pushed
byte is lost without OVF, and an access has no meaning (R166). -/
def fetchEvent (e : Event) (s : State) : Fetched :=
  match e with
  | .assertReset => .done (s.takeReset true)
  | .releaseReset => .done { s with inReset := false }
  | .push b => if s.inReset then .done s else .run (.push b) s
  | .access a =>
    if s.inReset then .refused .accessDuringReset
    else match decodeAccess a with
      | .ok i => .run i s
      | .error c => .fault (.busError c)

/-- Take the first pending event. -/
def fetch (s : State) : Fetched :=
  match s.pending with
  | [] => .idle
  | e :: rest => fetchEvent e { s with pending := rest }

/-- The state from which RXB goes on after a step that ended in BusError: unchanged, but that the failed access has
been answered and is no longer waiting (R145, R161). -/
def State.afterBusError (s : State) : State := { s with pending := s.pending.tail }

/-- `s` with an encoded operation as the next event, and the reset input released so that it is taken. -/
def State.withNext (s : State) (e : Encoded) : State :=
  { s with pending := eventOf e :: s.pending, inReset := false }

end Sys2Proof.Machine
end

