-- ==== Sys2Proof/Machine/Step.lean ====
section
/-! DEFINITION. One step: one operation of the linearization, whole (R16, R51). -/

namespace Sys2Proof.Machine

/-- One atomic step. With nothing pending RXB is idle and its state does not change (R168). -/
def step (s : State) : Host.Outcome State Fault Refusal :=
  match fetch s with
  | .idle => .next s
  | .run i s' => exec i s'
  | .done s' => .next s'
  | .fault f => .fault f
  | .refused r => .refused r

/-- `s` with the opcode-table word `w` of `nbits` bits as the next operation its step takes. The environment issues
RXB's operations (R22), so this stands for the master or the producer issuing that one (notes/assumptions/9.md). -/
def State.withFetchWord (s : State) (nbits w : Nat) : State :=
  match tableForm nbits w with
  | none => s
  | some e => s.withNext e

end Sys2Proof.Machine
end

