-- ==== Sys2Proof/Safety.lean ====
section
/-! DEFINITION. The terms claims about RXB are stated in: the invariant, runs, what an access or a command word runs
as, the positions of the pattern, and the bytes that enter and leave the FIFO in a run. -/

namespace Sys2Proof.Machine

/-! ## The invariant -/

/-- The architected state is the reset state's (R35). -/
def State.AtResetValues (s : State) : Prop :=
  s.buf = [] ∧ s.ovf = false ∧ s.rcode = 0 ∧ s.rvalue = 0 ∧ s.data = 0 ∧ s.pattern = 0x00400004 ∧
    s.crcAcc = 0xFFFFFFFF

/-- What every reachable state satisfies: CAP is legal (R6), the FIFO never holds more than CAP bytes (R24), RESULT
holds a code of R66 and a value no larger than CAP (R124), which is 0 beside WAIT, ERR_RANGE and ERR_CMD (R66, R135,
R147), and while reset is asserted no operation has touched the reset values (R166). -/
structure State.Inv (s : State) : Prop where
  capLow : 4 ≤ s.cap
  capHigh : s.cap ≤ 65535
  lengthLe : s.buf.length ≤ s.cap
  codeLegal : s.rcode.toNat ≤ 5
  valueLe : s.rvalue.toNat ≤ s.cap
  valueZero : s.rcode = 1 ∨ s.rcode = 4 ∨ s.rcode = 5 → s.rvalue = 0
  resetHeld : s.inReset = true → s.AtResetValues

/-! ## Runs -/

/-- `n` steps of the machine. -/
abbrev runSteps (n : Nat) (s : State) : Result := Host.Core.run Sys2Proof.core n s

/-- A run of `n` steps in which no access of the master ends in BusError (R162). -/
def State.Safe (s : State) (n : Nat) : Prop := ∃ t, runSteps n s = .next t

/-- The latest command did what the master meant: its code is neither ERR_RANGE nor ERR_CMD (R162). -/
def State.CommandAccepted (s : State) : Prop := s.rcode ≠ ResultCode.errRange.bits ∧ s.rcode ≠ ResultCode.errCmd.bits

/-! ## How an instruction is reached from the ports -/

/-- A register access in this direction at this offset runs the given instruction when it is a full word, and is
BE_WIDTH when it is not (R44, R71). -/
def RunsOnAccess (write : Bool) (off : BitVec 5) (instr : Word → Instr) : Prop :=
  ∀ (s : State) (a : Access) (rest : List Event), s.pending = .access a :: rest → s.inReset = false →
    a.write = write → a.off = off →
    (a.fullWord = true → step s = exec (instr a.data) { s with pending := rest }) ∧
    (a.fullWord = false → step s = .fault (.busError .width))

/-- Writing this word to CMD does what the instruction does (R60). -/
def RunsOnCommandWord (w : Word) (i : Instr) : Prop := ∀ s : State, exec (.wrCmd w) s = exec i s

/-- A state after an illegal command: `RESULT <- (ERR_CMD, 0)`, the bus answers OK, nothing else changes (R147). -/
def State.withErrCmd (s : State) : State := { s with rcode := 5, rvalue := 0, response := .writeOk }

/-- A state after a command out of range: `RESULT <- (ERR_RANGE, 0)`, the bus answers OK, nothing else changes (R147). -/
def State.withErrRange (s : State) : State := { s with rcode := 4, rvalue := 0, response := .writeOk }

/-- Every other command word with this OP is illegal (R63, R64). -/
def OnlyWordOfOp (op : Nat) (legal : Word) : Prop :=
  ∀ w : Word, w.toNat % 16 = op → w ≠ legal → ∀ s : State, exec (.wrCmd w) s = .next s.withErrCmd

/-- The instruction performs the command: it is the command's own row, or a CMD write of its word (R60). -/
def Performs (i : Instr) (c : Command) : Prop :=
  i = c.toInstr ∨ ∃ w, i = .wrCmd w ∧ decodeCommand w = .ok c

/-! ## The pattern -/

/-- The pattern's four bytes stand at index `i` of the content (R130). -/
def PatternAt (pattern : Word) (buf : List Byte) (i : Nat) : Prop :=
  i + 4 ≤ buf.length ∧ ∀ k < 4, buf[i + k]? = some (byteOf pattern k)

/-- `i` is the pattern's first occurrence (R130). -/
def FirstPatternAt (pattern : Word) (buf : List Byte) (i : Nat) : Prop :=
  PatternAt pattern buf i ∧ ∀ j < i, ¬ PatternAt pattern buf j

/-! ## The byte stream through the FIFO -/

/-- Whether an event can bring OVF from 1 to 0: a STATUS write with bit 16, or reset (R27). -/
def Event.clearsOverflow : Event → Bool
  | .push _ => false
  | .access a => a.write && a.off == 0x04#5 && a.data.getLsbD 16
  | .assertReset => true
  | .releaseReset => false

/-- The bytes of the producer's events, in order (R52, R53). -/
def producerBytes (events : List Event) : List Byte :=
  events.filterMap fun
    | .push b => some b
    | .access _ => none
    | .assertReset => none
    | .releaseReset => none

/-- How many bytes a command takes from the FIFO's head (R111, R112, R135). -/
def removedByCommand (c : Command) (s : State) : Nat :=
  match c with
  | .consume n => min n.toNat s.buf.length
  | .clear => s.buf.length
  | .syncStep => if s.buf.length < 4 then 0 else (scan s.pattern s.buf).getD s.buf.length
  | .nop => 0
  | .peek _ => 0
  | .peekWord _ => 0
  | .find => 0
  | .crcFifo _ => 0
  | .crcInit => 0

/-- How many bytes the master's next event takes from the FIFO's head: those of a full-word CMD write (R58). -/
def removedByNext (s : State) : Nat :=
  match fetch s with
  | .run (.wrCmd w) t =>
    match decodeCommand w with
    | .ok c => removedByCommand c t
    | .error _ => 0
  | _ => 0

/-- How many bytes the master takes from the FIFO's head in a run of `n` steps. -/
def removedIn : Nat → State → Nat
  | 0, _ => 0
  | n + 1, s =>
    removedByNext s +
      match step s with
      | .next t => removedIn n t
      | .fault _ => 0
      | .refused _ => 0

end Sys2Proof.Machine
end

