-- ==== Sys2Proof/Certificates/Slice0/Obligations.lean ====
section
/-! DEFINITION. The statements for the provers, from the numbered rules of spec/. -/

open Sys2Proof Sys2Proof.Machine

/-! ## Reset and the invariants -/

/-- R165: one reset event sets every piece of state, and it is one step; the state the model starts in holds the
same values. -/
def Obligations.ResetSetsEveryValue : Prop :=
  (∀ (s : State) (rest : List Event), s.pending = .assertReset :: rest →
    ∃ t, step s = .next t ∧ t.buf = [] ∧ t.ovf = false ∧ t.rcode = 0 ∧ t.rvalue = 0 ∧ t.data = 0 ∧
      t.pattern = 0x00400004 ∧ t.crcAcc = 0xFFFFFFFF ∧ t.cap = s.cap ∧ t.pending = rest) ∧
  State.reset.buf = [] ∧ State.reset.ovf = false ∧ State.reset.rcode = 0 ∧ State.reset.rvalue = 0 ∧
  State.reset.data = 0 ∧ State.reset.pattern = 0x00400004 ∧ State.reset.crcAcc = 0xFFFFFFFF

/-- R166: while reset is asserted a pushed byte is not stored and does not set OVF. That a register access then has
no meaning in the model is log entry 8's reading of "the master must not issue one". -/
def Obligations.NothingIsTakenDuringReset : Prop :=
  ∀ (s : State) (rest : List Event), s.inReset = true →
    (∀ b, s.pending = .push b :: rest → step s = .next { s with pending := rest }) ∧
    (∀ a, s.pending = .access a :: rest → step s = .refused .accessDuringReset)

/-- The reset state satisfies the invariant, whatever CAP is. -/
def Obligations.ResetStateMeetsInvariant : Prop := State.reset.Inv

/-- Every step that answers a next state keeps the invariant, from any state that satisfies it. -/
def Obligations.EveryStepKeepsInvariant : Prop :=
  ∀ s t : State, s.Inv → step s = .next t → t.Inv

/-- The reading of R108: no operation lets the length pass CAP, only PUSH lengthens the FIFO, and by one byte. -/
def Obligations.LengthNeverExceedsCapacity : Prop :=
  ∀ (i : Instr) (s t : State), s.buf.length ≤ s.cap → exec i s = .next t →
    t.cap = s.cap ∧ t.buf.length ≤ s.cap ∧
    (t.buf.length ≤ s.buf.length ∨ ∃ b, i = .push b ∧ s.buf.length < s.cap ∧ t.buf.length = s.buf.length + 1)

/-- The reading of R161: in no state is RXB stuck. Every instruction completes, and outside reset a step completes or
ends in BusError. -/
def Obligations.NeverStuck : Prop :=
  (∀ (i : Instr) (s : State), ∃ t, exec i s = .next t) ∧
  ∀ s : State, s.inReset = false → (∃ t, step s = .next t) ∨ ∃ c, step s = .fault (.busError c)

/-! ## Encoding and the step -/

/-- Decoding an instruction's encoding gives the instruction back, with every operand at every value. -/
def Obligations.DecodeInvertsEncode : Prop :=
  ∀ i : Instr, i.wf = true → decode (encode i) = .ok i

/-- The reading of R68: of the nine command rows exactly one accepts a legal word, by `(word & mask) = match`, and no
row accepts a word that is ERR_CMD. -/
def Obligations.CommandWordMatchesOneRowOrIsErrCmd : Prop :=
  ∀ w : Word,
    (∃ c r, decodeCommand w = .ok c ∧ r = c.toInstr.tableRow ∧ w &&& r.mask = r.value ∧
      r.mask = (if c.takesArg then 0x0000FFFF else 0xFFFFFFFF) ∧
      commandRows.filter (fun q => w &&& q.mask = q.value) = [r]) ∨
    ((∀ r ∈ commandRows, w &&& r.mask ≠ r.value) ∧ ∀ s : State, exec (.wrCmd w) s = .next s.withErrCmd)

/-- R71: the eleven legal descriptors, each with its operation. -/
def Obligations.LegalDescriptorsAreTheEleven : Prop :=
  ∀ (write : Bool) (off : BitVec 5) (data : Word) (i : Instr),
    decodeAccess ⟨write, off, .word, 0xF, data⟩ = .ok i ↔
      (32 * write.toNat + off.toNat, i) ∈
        [(0x20, .wrCmd data), (0x04, .rdStatus), (0x24, .wrStatus data), (0x08, .rdResult), (0x0C, .rdData),
          (0x10, .rdPattern), (0x30, .wrPattern data), (0x14, .rdCrcAcc), (0x34, .wrCrcAcc data),
          (0x38, .wrCrcData data), (0x1C, .rdCapacity)]

/-- Words written out from R62 and R76: each decodes to what it stands for, and the illegal ones to no command. -/
def Obligations.WorkedWordsDecode : Prop :=
  decode (.cmd 0x00480002) = .ok (.consume 72) ∧ decode (.cmd 0x00440004) = .ok (.peekWord 68) ∧
  decode (.cmd 0x00440007) = .ok (.crcFifo 68) ∧ decode (.cmd 0x00000006) = .ok .syncStep ∧
  decode (.cmd 0x00010000) = .error (.illegalCommand .strayArg) ∧
  decode (.cmd 0x00000016) = .error (.illegalCommand .reservedBits) ∧
  decode (.cmd 0x0000000F) = .error (.illegalCommand .reservedOp) ∧
  decode (.bus 0x24 0x00010000) = .ok (.wrStatus 0x00010000) ∧ decode (.port 0x5A) = .ok (.push 0x5A)

/-- R63, R64, R65: a word with a reserved OP, a nonzero RSV, or a nonzero ARG on an argument-less command completes
with (ERR_CMD, 0) and changes nothing else; every other word completes by running the command it decodes to. -/
def Obligations.IllegalCommandWordsReportErrCmd : Prop :=
  ∀ (w : Word) (s : State),
    if 9 ≤ w.toNat % 16 ∨ w.toNat / 16 % 4096 ≠ 0 ∨ (w.toNat % 16 ∈ [0, 1, 5, 6, 8] ∧ w.toNat / 65536 ≠ 0) then
      exec (.wrCmd w) s = .next s.withErrCmd
    else ∃ c t, decodeCommand w = .ok c ∧ exec c.toInstr s = .next t ∧ exec (.wrCmd w) s = .next t

/-- A step takes the first pending event: when it decodes to an instruction, outside reset, the step is that
instruction's execution, with the event taken. -/
def Obligations.StepRunsDecodedInstruction : Prop :=
  ∀ (s : State) (rest : List Event), s.inReset = false →
    (∀ b, s.pending = .push b :: rest → step s = exec (.push b) { s with pending := rest }) ∧
    (∀ a i, s.pending = .access a :: rest → decodeAccess a = .ok i → step s = exec i { s with pending := rest }) ∧
    (∀ e i, s.pending = eventOf e :: rest → decode e = .ok i → step s = exec i { s with pending := rest })

/-- R44, R45, R146: the three causes of BusError, the width first, then alignment, then direction; no other register
access fails. -/
def Obligations.BusErrorHasThreeCauses : Prop :=
  ∀ (s : State) (a : Access) (rest : List Event), s.pending = .access a :: rest → s.inReset = false →
    if a.size ≠ .word ∨ a.enables ≠ 0xF then step s = .fault (.busError .width)
    else if a.off.toNat % 4 ≠ 0 then step s = .fault (.busError .misaligned)
    else if (a.write = false ∧ a.off.toNat ∈ [0x00, 0x18]) ∨ (a.write = true ∧ a.off.toNat ∈ [0x08, 0x0C, 0x1C]) then
      step s = .fault (.busError .direction)
    else ∃ t, step s = .next t

/-- The window of R41 at a BASE: its 32 byte addresses are the offsets 0 to 31, no other address reaches RXB, and a
word read of a readable register's address puts the register's value on the bus and changes nothing else. -/
def Obligations.WindowReadsReturnRegisters : Prop :=
  (∀ base off : Nat, off < 32 → busOffset base (base + off) = some (BitVec.ofNat 5 off)) ∧
  (∀ base addr : Nat, addr < base ∨ base + 32 ≤ addr → busOffset base addr = none) ∧
  ∀ (base : Nat) (off : BitVec 5) (v : Word) (e : Event) (s : State) (rest : List Event),
    memRead base (base + off.toNat) = some e → s.pending = e :: rest → s.inReset = false →
    s.registerAt off = some v → step s = .next { s with response := .readData v, pending := rest }

/-- R13: LE32 weighs its bytes by powers of 256, and `byte_k` is its inverse, both ways. -/
def Obligations.LittleEndianAssembly : Prop :=
  (∀ b0 b1 b2 b3 : Byte,
    (le32 b0 b1 b2 b3).toNat = b0.toNat + 2 ^ 8 * b1.toNat + 2 ^ 16 * b2.toNat + 2 ^ 24 * b3.toNat ∧
    byteOf (le32 b0 b1 b2 b3) 0 = b0 ∧ byteOf (le32 b0 b1 b2 b3) 1 = b1 ∧
    byteOf (le32 b0 b1 b2 b3) 2 = b2 ∧ byteOf (le32 b0 b1 b2 b3) 3 = b3) ∧
  ∀ v : Word, le32 (byteOf v 0) (byteOf v 1) (byteOf v 2) (byteOf v 3) = v ∧
    ∀ k < 4, byteOf v k = ((v >>> (8 * k)) &&& 0xFF).setWidth 8

/-- R171, for RESULT: the read right after a CMD write shows that command's outcome. -/
def Obligations.ResultReadAfterCommandShowsIt : Prop :=
  ∀ (w : Word) (s : State) (rest : List Event), s.inReset = false →
    s.pending = eventOf (.cmd w) :: eventOf (.bus 0x08 0) :: rest →
    ∃ t, exec (.wrCmd w) { s with pending := eventOf (.bus 0x08 0) :: rest } = .next t ∧
      runSteps 2 s = .next { t with response := .readData t.resultWord, pending := rest }

/-! ## The FIFO -/

/-- R107: PUSH stores the byte, or at len = CAP empties the FIFO, sets OVF and drops the byte. It changes nothing else
and gets no answer. -/
def Obligations.PushStoresOrOverflows : Prop :=
  (∀ (s : State) (b : Byte) (rest : List Event), s.pending = .push b :: rest → s.inReset = false →
    step s = exec (.push b) { s with pending := rest }) ∧
  ∀ (b : Byte) (s : State),
    (s.buf.length < s.cap → exec (.push b) s = .next { s with buf := s.buf ++ [b] }) ∧
    (s.cap ≤ s.buf.length → exec (.push b) s = .next { s with buf := [], ovf := true })

/-- The reading of R109, in closed form: each overflow costs CAP + 1 bytes, so a burst leaves what is left of the
content and the burst after whole groups of CAP + 1, and OVF is set if the first CAP - len bytes are not all. -/
def Obligations.BurstLeavesTailAfterOverflows : Prop :=
  ∀ (s : State) (bytes : List Byte) (rest : List Event), s.inReset = false → s.buf.length ≤ s.cap →
    s.pending = bytes.map .push ++ rest →
    runSteps bytes.length s = .next
      { s with
        buf := (s.buf ++ bytes).drop ((s.cap + 1) * ((s.buf.length + bytes.length) / (s.cap + 1)))
        ovf := s.ovf || decide (s.cap < s.buf.length + bytes.length)
        pending := rest }

/-- R110: NOP is CMD word 0, writes (OK, 0), and changes nothing else; every other word with OP = 0 is ERR_CMD. -/
def Obligations.NopWritesOnlyResult : Prop :=
  RunsOnCommandWord 0x00000000 .nop ∧ OnlyWordOfOp 0 0x00000000 ∧
  ∀ s : State, exec .nop s = .next { s with rcode := 0, rvalue := 0, response := .writeOk }

/-- R111: CONSUME removes the first `min(n, len)` bytes, the rest moves to index 0, VALUE is the number removed, and
nothing else changes. -/
def Obligations.ConsumeRemovesHead : Prop :=
  (∀ n : BitVec 16, RunsOnCommandWord (0x00000002 ||| n.setWidth 32 <<< 16) (.consume n)) ∧
  ∀ (n : BitVec 16) (s : State), s.Inv →
    ∃ t, exec (.consume n) s = .next t ∧
      t = { s with buf := t.buf, rcode := 0, rvalue := t.rvalue, response := .writeOk } ∧
      t.rvalue.toNat = min n.toNat s.buf.length ∧
      t.buf.length = s.buf.length - min n.toNat s.buf.length ∧
      ∀ j, t.buf[j]? = s.buf[j + min n.toNat s.buf.length]?

/-- R112: CLEAR empties the FIFO, VALUE is the number of bytes discarded, and nothing else changes, OVF included; it
does what CONSUME 65535 does. -/
def Obligations.ClearDiscardsEveryByte : Prop :=
  RunsOnCommandWord 0x00000001 .clear ∧ OnlyWordOfOp 1 0x00000001 ∧
  ∀ s : State, s.Inv →
    (∃ t, exec .clear s = .next t ∧
      t = { s with buf := [], rcode := 0, rvalue := t.rvalue, response := .writeOk } ∧
      t.rvalue.toNat = s.buf.length) ∧
    exec .clear s = exec (.consume 65535) s

/-- R114: PEEK zero-extends the byte at index `i` into DATA, or reports ERR_RANGE and leaves DATA. -/
def Obligations.PeekReadsByte : Prop :=
  (∀ i : BitVec 16, RunsOnCommandWord (0x00000003 ||| i.setWidth 32 <<< 16) (.peek i)) ∧
  ∀ (i : BitVec 16) (s : State),
    (∀ h : i.toNat < s.buf.length, exec (.peek i) s =
      .next { s with data := s.buf[i.toNat].setWidth 32, rcode := 0, rvalue := 0, response := .writeOk }) ∧
    (s.buf.length ≤ i.toNat → exec (.peek i) s = .next s.withErrRange)

/-- R115: PEEK_WORD reads the four bytes from index `i` on as a little-endian word into DATA, at any alignment, or
reports ERR_RANGE and leaves DATA. -/
def Obligations.PeekWordReadsLittleEndianWord : Prop :=
  (∀ i : BitVec 16, RunsOnCommandWord (0x00000004 ||| i.setWidth 32 <<< 16) (.peekWord i)) ∧
  ∀ (i : BitVec 16) (s : State),
    (∀ h : i.toNat + 4 ≤ s.buf.length, exec (.peekWord i) s =
      .next { s with
        data := le32 s.buf[i.toNat] s.buf[i.toNat + 1] s.buf[i.toNat + 2] s.buf[i.toNat + 3]
        rcode := 0, rvalue := 0, response := .writeOk }) ∧
    (s.buf.length < i.toNat + 4 → exec (.peekWord i) s = .next s.withErrRange)

/-- The reading of R116: after a successful PEEK_WORD, DATA[15:0] is the 16-bit little-endian field at that index,
the one that two PEEKs give. -/
def Obligations.SixteenBitFieldFromPeekWord : Prop :=
  ∀ (i : BitVec 16) (s : State), i.toNat + 4 ≤ s.buf.length → s.buf.length ≤ 65535 →
    ∃ t u v, exec (.peekWord i) s = .next t ∧ exec (.peek i) s = .next u ∧ exec (.peek (i + 1)) s = .next v ∧
      (t.data.setWidth 16).toNat = u.data.toNat + 256 * v.data.toNat ∧
      (t.data.setWidth 16).setWidth 32 = u.data ||| v.data <<< 8

/-- R117: STATUS reads as LEN + OVF·2^16 + EMPTY·2^17 + FULL·2^18, at offset 0x04, with no side effect. -/
def Obligations.StatusReadShowsFlags : Prop :=
  RunsOnAccess false 0x04 (fun _ => .rdStatus) ∧
  ∀ s : State, s.Inv → ∃ v, exec .rdStatus s = .next { s with response := .readData v } ∧
    v.toNat = s.buf.length + (if s.ovf then 2 ^ 16 else 0) + (if s.buf.length = 0 then 2 ^ 17 else 0) +
      (if s.buf.length = s.cap then 2 ^ 18 else 0)

/-- The reading of R118: EMPTY and FULL are never both read as 1, and EMPTY is 1 exactly when LEN is 0. -/
def Obligations.EmptyAndFullNeverTogether : Prop :=
  ∀ s : State, s.Inv → ∃ v, exec .rdStatus s = .next { s with response := .readData v } ∧
    ¬ (v.getLsbD 17 = true ∧ v.getLsbD 18 = true) ∧ (v.getLsbD 17 = true ↔ v.extractLsb' 0 16 = 0)

/-- R120: a STATUS write at offset 0x04 clears OVF when bit 16 is 1, and changes nothing else. -/
def Obligations.StatusWriteClearsOverflow : Prop :=
  RunsOnAccess true 0x04 (fun v => .wrStatus v) ∧
  ∀ (v : Word) (s : State), exec (.wrStatus v) s =
    .next { s with ovf := if v.toNat / 2 ^ 16 % 2 = 1 then false else s.ovf, response := .writeOk }

/-- R121: RESULT reads as CODE + VALUE·2^16, at offset 0x08, and the read does not clear it. -/
def Obligations.ResultReadShowsCodeAndValue : Prop :=
  RunsOnAccess false 0x08 (fun _ => .rdResult) ∧
  ∀ s : State, ∃ v, exec .rdResult s = .next { s with response := .readData v } ∧
    v.toNat = s.rcode.toNat + 2 ^ 16 * s.rvalue.toNat

/-- R122: DATA reads as it stands, at offset 0x0C, also after an ERR_RANGE peek, which leaves it stale. -/
def Obligations.DataReadReturnsLastPeek : Prop :=
  RunsOnAccess false 0x0C (fun _ => .rdData) ∧
  (∀ s : State, exec .rdData s = .next { s with response := .readData s.data }) ∧
  ∀ (i : BitVec 16) (s t : State), exec (.peek i) s = .next t ∨ exec (.peekWord i) s = .next t →
    t.rcode = 4 → exec .rdData t = .next { t with response := .readData s.data }

/-- R33, R123: CAPACITY reads as CAP, at offset 0x1C, and no step changes it, reset included. -/
def Obligations.CapacityReadIsConstant : Prop :=
  RunsOnAccess false 0x1C (fun _ => .rdCapacity) ∧
  (∀ s : State, s.cap ≤ 65535 → ∃ v, exec .rdCapacity s = .next { s with response := .readData v } ∧ v.toNat = s.cap) ∧
  ∀ s t : State, step s = .next t → t.cap = s.cap

/-! ## The synchronizer -/

/-- R131: PATTERN reads as it stands, at offset 0x10. -/
def Obligations.PatternReadReturnsPattern : Prop :=
  RunsOnAccess false 0x10 (fun _ => .rdPattern) ∧
  (∀ s : State, exec .rdPattern s = .next { s with response := .readData s.pattern }) ∧
  exec .rdPattern State.reset = .next { State.reset with response := .readData 0x00400004 }

/-- R132: a PATTERN write at offset 0x10 loads any 32-bit value, changes nothing else, and the next FIND scans for it. -/
def Obligations.PatternWriteLoadsPattern : Prop :=
  RunsOnAccess true 0x10 (fun v => .wrPattern v) ∧
  ∀ (v : Word) (s : State), exec (.wrPattern v) s = .next { s with pattern := v, response := .writeOk } ∧
    ∀ t u, exec (.wrPattern v) s = .next t → exec .find t = .next u →
      (u.rcode = 2 ↔ ∃ i, PatternAt v s.buf i)

/-- R130, R133: FIND reports the least index at which the pattern stands, or NOT_FOUND, and changes no byte. -/
def Obligations.FindReportsLeastMatch : Prop :=
  RunsOnCommandWord 0x00000005 .find ∧ OnlyWordOfOp 5 0x00000005 ∧
  ∀ s : State, s.Inv → ∃ t, exec .find s = .next t ∧
    t = { s with rcode := t.rcode, rvalue := t.rvalue, response := .writeOk } ∧
    ((t.rcode = 2 ∧ FirstPatternAt s.pattern s.buf t.rvalue.toNat) ∨
      (t.rcode = 3 ∧ t.rvalue = 0 ∧ ∀ j, ¬ PatternAt s.pattern s.buf j))

/-- R135: SYNC_STEP waits for four bytes; then it discards the bytes before the first match, or all of them, and
VALUE is the number discarded. -/
def Obligations.SyncStepDiscardsUpToMatch : Prop :=
  RunsOnCommandWord 0x00000006 .syncStep ∧ OnlyWordOfOp 6 0x00000006 ∧
  ∀ s : State, s.Inv →
    (s.buf.length < 4 → exec .syncStep s = .next { s with rcode := 1, rvalue := 0, response := .writeOk }) ∧
    (4 ≤ s.buf.length → ∃ t, exec .syncStep s = .next t ∧
      t = { s with buf := t.buf, rcode := t.rcode, rvalue := t.rvalue, response := .writeOk } ∧
      ((∃ r, FirstPatternAt s.pattern s.buf r ∧ t.buf = s.buf.drop r ∧ t.rcode = 2 ∧ t.rvalue.toNat = r) ∨
        ((∀ j, ¬ PatternAt s.pattern s.buf j) ∧ t.buf = [] ∧ t.rcode = 3 ∧ t.rvalue.toNat = s.buf.length)))

/-- The reading of R138: FOUND leaves the pattern at index 0, NOT_FOUND an empty FIFO, WAIT the content; and no byte
at or after a match is ever removed. -/
def Obligations.SyncStepKeepsFromFirstMatchOn : Prop :=
  ∀ s t : State, exec .syncStep s = .next t →
    (t.rcode = 2 → PatternAt t.pattern t.buf 0 ∧ 4 ≤ t.buf.length) ∧ (t.rcode = 3 → t.buf = []) ∧
    (t.rcode = 1 → t.buf = s.buf) ∧ (t.rcode = 1 ∨ t.rcode = 2 ∨ t.rcode = 3) ∧
    ∀ r, PatternAt s.pattern s.buf r → s.buf.drop r <:+ t.buf

/-- The reading of R139: a SYNC_STEP after `n` pushes of a stream into an empty FIFO finds the stream's first pattern,
at `k`, if the pattern has arrived whole; with 4 ≤ n < k + 4 it finds nothing and discards all. -/
def Obligations.ConvergenceNeedsWholePattern : Prop :=
  ∀ (s : State) (stream : List Byte) (k n : Nat) (rest : List Event), s.Inv → s.inReset = false → s.buf = [] →
    FirstPatternAt s.pattern stream k → n ≤ stream.length → n ≤ s.cap → 4 ≤ n →
    s.pending = (stream.take n).map .push ++ eventOf (.cmd 0x00000006) :: rest →
    ∃ t, runSteps (n + 1) s = .next t ∧
      (k + 4 ≤ n → t.rcode = 2 ∧ t.rvalue.toNat = k ∧ t.buf = (stream.take n).drop k) ∧
      (n < k + 4 → t.rcode = 3 ∧ t.rvalue.toNat = n ∧ t.buf = [])

/-! ## The CRC unit -/

/-- R86: each entry of the table is `n << 28` reduced by four bits of P; evaluated, these are the rule's 16 words. -/
def Obligations.NibbleTableIsComputedFromPolynomial : Prop :=
  (∀ n : BitVec 4, nibbleTable n =
    ((fun c : Word => if c.toNat / 2 ^ 31 = 1 then (c <<< 1) ^^^ 0x04C11DB7 else c <<< 1)^[4]) (n.setWidth 32 <<< 28)) ∧
  (List.range 16).map (fun n => nibbleTable (BitVec.ofNat 4 n)) =
    [0x00000000, 0x04C11DB7, 0x09823B6E, 0x0D4326D9, 0x130476DC, 0x17C56B6B, 0x1A864DB2, 0x1E475005,
      0x2608EDB8, 0x22C9F00F, 0x2F8AD6D6, 0x2B4BCB61, 0x350C9B64, 0x31CD86D3, 0x3C8EA00A, 0x384FBDBD]

/-- The reading of R88: eight table steps and 32 one-bit steps are the same function. -/
def Obligations.WordStepEqualsBitwiseForm : Prop :=
  ∀ acc w : Word, crcWord acc w =
    ((fun c : Word => if c.msb then (c <<< 1) ^^^ 0x04C11DB7 else c <<< 1)^[32]) (acc ^^^ w)

/-- The reading of R92 (a), (b), (c): the word step depends on `acc ^ w` alone, annihilates equal operands, and is
linear over GF(2). -/
def Obligations.WordStepIsLinear : Prop :=
  ∀ a w d : Word, crcWord a w = crcWord (a ^^^ w) 0 ∧ crcWord a a = 0 ∧
    crcWord (a ^^^ d) w = crcWord a w ^^^ crcWord d 0

/-- The reading of R92 (d): for a fixed data word the step is a bijection of the accumulator. -/
def Obligations.WordStepIsBijective : Prop :=
  ∀ w : Word, Function.Bijective (fun a => crcWord a w)

/-- R91: CrcBytes of no bytes is the seed, and each further word of four bytes is one word step of their
little-endian word. -/
def Obligations.RegionCrcStepsWordByWord : Prop :=
  (∀ bytes : List Byte, crcBytes bytes 0 = 0xFFFFFFFF) ∧
  ∀ (bytes : List Byte) (m : Nat), 4 ∣ m → ∀ h : m + 4 ≤ bytes.length,
    crcBytes bytes (m + 4) =
      crcWord (crcBytes bytes m) (le32 bytes[m] bytes[m + 1] bytes[m + 2] bytes[m + 3])

/-- The reading of R92 (e): changing any bits inside one word of the covered region changes its CRC. -/
def Obligations.OneWordChangeChangesCrc : Prop :=
  ∀ (before after old new : List Byte) (m : Nat), old.length = 4 → new.length = 4 → old ≠ new →
    4 ∣ before.length → 4 ∣ m → before.length + 4 ≤ m → m ≤ before.length + 4 + after.length →
    crcBytes (before ++ old ++ after) m ≠ crcBytes (before ++ new ++ after) m

/-- The reading of R92 (f): the CRC of a region and its four-byte trailer is 0 exactly when the trailer is the
little-endian CRC of the region. -/
def Obligations.ResidueIsZeroIffTrailerMatches : Prop :=
  ∀ (bytes : List Byte) (m : Nat), 4 ∣ m → m + 4 ≤ bytes.length →
    (crcBytes bytes (m + 4) = 0 ↔ ∀ k < 4, bytes[m + k]? = some (byteOf (crcBytes bytes m) k))

/-- R93: CRC_INIT is CMD word 8, seeds the accumulator, writes (OK, 0), and changes nothing else. -/
def Obligations.CrcInitSeedsAccumulator : Prop :=
  RunsOnCommandWord 0x00000008 .crcInit ∧ OnlyWordOfOp 8 0x00000008 ∧
  ∀ s : State, exec .crcInit s =
    .next { s with crcAcc := 0xFFFFFFFF, rcode := 0, rvalue := 0, response := .writeOk }

/-- R94, R95, R96: CRC_FIFO covers the first `a` bytes less `a mod 4`, from the seed, whatever CRC_ACC held; it
consumes nothing; if fewer bytes are held it reports ERR_RANGE and leaves CRC_ACC. -/
def Obligations.CrcFifoCoversWholeWords : Prop :=
  (∀ a : BitVec 16, RunsOnCommandWord (0x00000007 ||| a.setWidth 32 <<< 16) (.crcFifo a)) ∧
  ∀ (a : BitVec 16) (s : State),
    (a.toNat - a.toNat % 4 ≤ s.buf.length → ∃ t, exec (.crcFifo a) s = .next t ∧
      t = { s with crcAcc := crcBytes s.buf (a.toNat - a.toNat % 4), rcode := 0, rvalue := t.rvalue, response := .writeOk } ∧
      t.rvalue.toNat = a.toNat - a.toNat % 4) ∧
    (s.buf.length < a.toNat - a.toNat % 4 → exec (.crcFifo a) s = .next s.withErrRange)

/-- R97: a CRC_DATA write at offset 0x18 is one word step of the accumulator with the word as written, and changes
nothing else. -/
def Obligations.CrcDataWriteStepsAccumulator : Prop :=
  RunsOnAccess true 0x18 (fun w => .wrCrcData w) ∧
  (∀ (w : Word) (s : State), exec (.wrCrcData w) s =
    .next { s with crcAcc := crcWord s.crcAcc w, response := .writeOk }) ∧
  ∀ s : State, exec (.wrCrcData s.crcAcc) s = .next { s with crcAcc := 0, response := .writeOk }

/-- R98: a CRC_ACC write at offset 0x14 loads the accumulator and changes nothing else. -/
def Obligations.CrcAccWriteLoadsAccumulator : Prop :=
  RunsOnAccess true 0x14 (fun v => .wrCrcAcc v) ∧
  ∀ (v : Word) (s : State), exec (.wrCrcAcc v) s = .next { s with crcAcc := v, response := .writeOk }

/-- R99: CRC_ACC reads as it stands, at offset 0x14. -/
def Obligations.CrcAccReadReturnsAccumulator : Prop :=
  RunsOnAccess false 0x14 (fun _ => .rdCrcAcc) ∧
  (∀ s : State, exec .rdCrcAcc s = .next { s with response := .readData s.crcAcc }) ∧
  exec .rdCrcAcc State.reset = .next { State.reset with response := .readData 0xFFFFFFFF }

/-- Feeding the words of a byte sequence through CRC_DATA after CRC_INIT gives the CRC that CRC_FIFO gives of the
same bytes. -/
def Obligations.WordStreamEqualsRegionCrc : Prop :=
  ∀ (bytes : List Byte) (s : State) (rest : List Event), 4 ∣ bytes.length → s.inReset = false →
    s.pending = eventOf (.cmd 0x00000008) :: (wordsOf bytes).map (fun w => eventOf (.bus 0x38 w)) ++ rest →
    ∃ t, runSteps (bytes.length / 4 + 1) s = .next t ∧ t.crcAcc = crcBytes bytes bytes.length ∧
      t.buf = s.buf ∧ t.pending = rest

/-- The reading of R100: with a 72-byte candidate held, comparing CRC_FIFO 68 with the trailer word and testing
CRC_FIFO 72 for 0 give the same verdict. -/
def Obligations.FrameCheckIsResidueCheck : Prop :=
  ∀ s : State, 72 ≤ s.buf.length →
    ∃ t u v, exec (.crcFifo 68) s = .next t ∧ exec (.peekWord 68) t = .next u ∧ exec (.crcFifo 72) s = .next v ∧
      (u.crcAcc = u.data ↔ v.crcAcc = 0)

/-! ## Rules over all operations -/

/-- R27: OVF rises only at a PUSH into a full FIFO, and falls only at a STATUS write with bit 16 = 1 or at reset. -/
def Obligations.OverflowFlagWriters : Prop :=
  ∀ s t : State, step s = .next t →
    (s.ovf = false → t.ovf = true →
      ∃ b rest, s.pending = .push b :: rest ∧ s.inReset = false ∧ s.cap ≤ s.buf.length) ∧
    (s.ovf = true → t.ovf = false →
      (∃ rest, s.pending = .assertReset :: rest) ∨
      ∃ a rest, s.pending = .access a :: rest ∧ a.write = true ∧ a.off = 0x04 ∧ a.data.getLsbD 16 = true)

/-- R106: what each operation that can change the content does to it; no other operation changes it. -/
def Obligations.BufferWriters : Prop :=
  (∀ (i : Instr) (s t : State), exec i s = .next t → t.buf ≠ s.buf →
    (∃ b, i = .push b ∧ (t.buf = s.buf ++ [b] ∨ (s.cap ≤ s.buf.length ∧ t.buf = []))) ∨
    (Performs i .clear ∧ t.buf = []) ∨
    ((∃ n, Performs i (.consume n)) ∧ ∃ k, t.buf = s.buf.drop k) ∨
    (Performs i .syncStep ∧ ∃ k, t.buf = s.buf.drop k)) ∧
  ∀ s t : State, step s = .next t → (∃ rest, s.pending = .assertReset :: rest) → t.buf = []

/-- Whole-machine reading of R28 to R31: DATA is written only by a peek that ends with OK, PATTERN only by its write,
CRC_ACC only by its four writers, RESULT only by commands; and no instruction touches CAP, the reset input or the
operations still to come. -/
def Obligations.RegisterWriters : Prop :=
  ∀ (i : Instr) (s t : State), exec i s = .next t →
    (t.data ≠ s.data → (∃ x, Performs i (.peek x) ∨ Performs i (.peekWord x)) ∧ t.rcode = 0) ∧
    (t.pattern ≠ s.pattern → ∃ v, i = .wrPattern v) ∧
    (t.crcAcc ≠ s.crcAcc → Performs i .crcInit ∨ (∃ a, Performs i (.crcFifo a)) ∨ (∃ v, i = .wrCrcAcc v) ∨
      ∃ w, i = .wrCrcData w) ∧
    (t.rcode ≠ s.rcode ∨ t.rvalue ≠ s.rvalue → (∃ c, Performs i c) ∨ ∃ w, i = .wrCmd w) ∧
    t.cap = s.cap ∧ t.inReset = s.inReset ∧ t.pending = s.pending

/-- R49: each of the six register reads changes nothing but the bus's answer, and read again gives the same value. -/
def Obligations.ReadsHaveNoSideEffects : Prop :=
  ∀ i ∈ [Instr.rdStatus, .rdResult, .rdData, .rdPattern, .rdCrcAcc, .rdCapacity], ∀ s : State,
    ∃ v, exec i s = .next { s with response := .readData v } ∧
      exec i { s with response := .readData v } = .next { s with response := .readData v }

/-- The reading of R50: writing PATTERN, CRC_ACC or STATUS twice with one value leaves what writing it once leaves. -/
def Obligations.LoadingWritesAreIdempotent : Prop :=
  ∀ (v : Word), ∀ i ∈ [Instr.wrPattern v, .wrCrcAcc v, .wrStatus v], ∀ s : State,
    ∃ t, exec i s = .next t ∧ exec i t = .next t

/-- The reading of R59, and of R53 and R58 with it: in a run that no STATUS write clears OVF in and that ends with
OVF = 0, no overflow happened, and the content at the end is the content at the start and the bytes pushed since,
in their order, less what the master removed; so an index the master knew still names the same byte. -/
def Obligations.ContentIsStreamWithoutOverflow : Prop :=
  ∀ (n : Nat) (s t : State), s.inReset = false → (∀ e ∈ s.pending.take n, e.clearsOverflow = false) →
    runSteps n s = .next t → t.ovf = false →
    (∀ k ≤ n, ∀ u, runSteps k s = .next u → u.ovf = false) ∧
    t.buf = (s.buf ++ producerBytes (s.pending.take n)).drop (removedIn n s) ∧
    s.buf.drop (removedIn n s) <+: t.buf ∧
    ∀ i, removedIn n s ≤ i → i < s.buf.length → t.buf[i - removedIn n s]? = s.buf[i]?

/-- The reading of R169: clear, ovfclr, crcinit, a PATTERN write and nop bring RXB back to the reset state, but for
DATA. -/
def Obligations.SoftResetRestoresAllButData : Prop :=
  ∀ s : State, s.inReset = false →
    s.pending = [eventOf (.cmd 0x00000001), eventOf (.bus 0x24 0x00010000), eventOf (.cmd 0x00000008),
      eventOf (.bus 0x30 0x00400004), eventOf (.cmd 0x00000000)] →
    runSteps 5 s = .next { State.resetWith s.cap with data := s.data, response := .writeOk }
end

