-- ==== Sys2Proof/Laws/Decode.lean ====
section
/-! SUPPORT. Small facts of the decoder: the two parts of a descriptor, and how the encoded forms decode at the ports. -/

namespace Sys2Proof

/-- A descriptor's bit 5 is the direction (R71). -/
theorem desc_write (w : Bool) (off : BitVec 5) : (BitVec.ofBool w ++ off).getLsbD 5 = w := by
  revert w off; decide

/-- A descriptor's bits 4:0 are the offset (R71). -/
theorem desc_off (w : Bool) (off : BitVec 5) : (BitVec.ofBool w ++ off).extractLsb' 0 5 = off := by
  revert w off; decide

/-- A descriptor is its direction and its offset, and nothing else (R71). -/
theorem desc_parts (desc : BitVec 6) : BitVec.ofBool (desc.getLsbD 5) ++ desc.extractLsb' 0 5 = desc := by
  revert desc; decide

/-- An access of full width is decoded by its descriptor. -/
theorem decodeAccess_of_full (a : Access) (h : a.fullWord = true) : decodeAccess a = decodeDesc a.desc a.data := by
  simp [decodeAccess, h]

/-- An access that is not a full word is BE_WIDTH, whatever its offset (R151). -/
theorem decodeAccess_of_narrow (a : Access) (h : a.fullWord = false) : decodeAccess a = .error .width := by
  simp [decodeAccess, h]

/-- A descriptor presented as a full-word access decodes as the descriptor. -/
theorem decodeAccess_of_desc (desc : BitVec 6) (data : Word) :
    decodeAccess ⟨desc.getLsbD 5, desc.extractLsb' 0 5, .word, 0xF, data⟩ = decodeDesc desc data := by
  rw [decodeAccess_of_full _ rfl]
  exact congrArg (fun d => decodeDesc d data) (desc_parts desc)

/-- A command word presented as a write of CMD decodes as that write (R60). -/
theorem decodeAccess_of_command (w : Word) : decodeAccess ⟨true, 0x00, .word, 0xF, w⟩ = .ok (.wrCmd w) := by
  simp [decodeAccess, Access.fullWord, Access.desc, decodeDesc]

end Sys2Proof
end

