-- ==== Sys2Proof/Laws/Operands.lean ====
section
/-! SUPPORT. What the operand forms and the scan compute: one lemma each, which proofs cite instead of unfolding. -/

namespace Sys2Proof.Machine

/-! ## Indexed bytes and words -/

/-- The word at `i`, when four bytes are held from there on. -/
theorem wordAt_of_le (buf : List Byte) (i : Nat) (h : i + 4 ≤ buf.length) :
    wordAt buf i = some (le32 buf[i] buf[i + 1] buf[i + 2] buf[i + 3]) := by
  have h0 : buf.drop i = buf[i] :: buf[i + 1] :: buf[i + 2] :: buf[i + 3] :: buf.drop (i + 4) := by
    rw [List.drop_eq_getElem_cons (by omega), List.drop_eq_getElem_cons (by omega),
      List.drop_eq_getElem_cons (by omega), List.drop_eq_getElem_cons (by omega)]
  rw [wordAt, h0]

/-- No word is at `i` when fewer than four bytes are held from there on. -/
theorem wordAt_of_lt (buf : List Byte) (i : Nat) (h : buf.length < i + 4) : wordAt buf i = none := by
  have hl : (buf.drop i).length < 4 := by simp; omega
  unfold wordAt
  split
  · rename_i heq; simp only [heq, List.length_cons] at hl; omega
  · rfl

/-- The words of a sequence whose first part is whole words. -/
theorem wordsOf_append (xs ys : List Byte) (h : 4 ∣ xs.length) : wordsOf (xs ++ ys) = wordsOf xs ++ wordsOf ys := by
  induction xs using wordsOf.induct with
  | case1 b0 b1 b2 b3 rest ih =>
    have : 4 ∣ rest.length := by simp only [List.length_cons] at h; omega
    simp [wordsOf, ih this]
  | case2 xs hxs =>
    have hx : xs = [] := by
      match xs, hxs, h with
      | [], _, _ => rfl
      | [_], _, h => simp at h
      | [_, _], _, h => simp at h
      | [_, _, _], _, h => simp at h
      | b0 :: b1 :: b2 :: b3 :: r, hxs, _ => exact absurd rfl (hxs b0 b1 b2 b3 r)
    subst hx; simp [wordsOf]

/-- The covered length is the length less its remainder by 4 (R95). -/
theorem coveredLength_eq (a : BitVec 16) : coveredLength a = a.toNat - a.toNat % 4 := by
  have h : (a &&& 0xFFFC#16) = (a >>> 2) <<< 2 := by
    ext i hi
    have hi' : i < 16 := hi
    simp only [BitVec.getElem_and, BitVec.getElem_shiftLeft]
    interval_cases i <;> simp
  rw [coveredLength, h]
  have := a.isLt
  simp [BitVec.toNat_shiftLeft, BitVec.toNat_ushiftRight, Nat.shiftLeft_eq, Nat.shiftRight_eq_div_pow]
  omega

/-! ## The scan -/

theorem matchAt_iff (pattern : Word) (buf : List Byte) (i : Nat) :
    matchAt pattern buf i = true ↔ PatternAt pattern buf i := by
  simp [matchAt, PatternAt, byteAt, List.all_eq_true]

/-- The scan answers the first occurrence (R130). -/
theorem scan_eq_some_iff (pattern : Word) (buf : List Byte) (r : Nat) :
    scan pattern buf = some r ↔ FirstPatternAt pattern buf r := by
  unfold scan FirstPatternAt
  rw [List.find?_range_eq_some]
  simp only [← matchAt_iff]
  constructor
  · rintro ⟨h, -, hj⟩; exact ⟨h, fun j hjr => by simpa using hj j hjr⟩
  · rintro ⟨h, hj⟩
    have := ((matchAt_iff pattern buf r).mp h).1
    exact ⟨h, by simp; omega, fun j hjr => by simpa using hj j hjr⟩

/-- The scan answers NONE exactly when the pattern stands nowhere (R130). -/
theorem scan_eq_none_iff (pattern : Word) (buf : List Byte) :
    scan pattern buf = none ↔ ∀ j, ¬ PatternAt pattern buf j := by
  unfold scan
  rw [List.find?_eq_none]
  simp only [← matchAt_iff, List.mem_range]
  refine ⟨fun h j hm => ?_, fun h j _ => h j⟩
  exact h j (by have := ((matchAt_iff pattern buf j).mp hm).1; omega) hm

end Sys2Proof.Machine
end

