-- ==== Sys2Proof/Laws/State.lean ====
section
/-! SUPPORT. The state's small lemmas: one per field per update, so that no proof unfolds a record update. -/

namespace Sys2Proof.Machine

/-! ## Removing from the head -/

@[simp] theorem State.removeHead_buf (s : State) (k : Nat) : (s.removeHead k).buf = s.buf.drop k := rfl
@[simp] theorem State.removeHead_ovf (s : State) (k : Nat) : (s.removeHead k).ovf = s.ovf := rfl
@[simp] theorem State.removeHead_rcode (s : State) (k : Nat) : (s.removeHead k).rcode = s.rcode := rfl
@[simp] theorem State.removeHead_rvalue (s : State) (k : Nat) : (s.removeHead k).rvalue = s.rvalue := rfl
@[simp] theorem State.removeHead_data (s : State) (k : Nat) : (s.removeHead k).data = s.data := rfl
@[simp] theorem State.removeHead_pattern (s : State) (k : Nat) : (s.removeHead k).pattern = s.pattern := rfl
@[simp] theorem State.removeHead_crcAcc (s : State) (k : Nat) : (s.removeHead k).crcAcc = s.crcAcc := rfl
@[simp] theorem State.removeHead_cap (s : State) (k : Nat) : (s.removeHead k).cap = s.cap := rfl
@[simp] theorem State.removeHead_inReset (s : State) (k : Nat) : (s.removeHead k).inReset = s.inReset := rfl
@[simp] theorem State.removeHead_response (s : State) (k : Nat) : (s.removeHead k).response = s.response := rfl
@[simp] theorem State.removeHead_pending (s : State) (k : Nat) : (s.removeHead k).pending = s.pending := rfl

/-! ## Writing RESULT -/

@[simp] theorem State.setResult_buf (s : State) (c : ResultCode) (v : Nat) : (s.setResult c v).buf = s.buf := rfl
@[simp] theorem State.setResult_ovf (s : State) (c : ResultCode) (v : Nat) : (s.setResult c v).ovf = s.ovf := rfl
@[simp] theorem State.setResult_rcode (s : State) (c : ResultCode) (v : Nat) : (s.setResult c v).rcode = c.bits := rfl
@[simp] theorem State.setResult_rvalue (s : State) (c : ResultCode) (v : Nat) : (s.setResult c v).rvalue = BitVec.ofNat 16 v := rfl
@[simp] theorem State.setResult_data (s : State) (c : ResultCode) (v : Nat) : (s.setResult c v).data = s.data := rfl
@[simp] theorem State.setResult_pattern (s : State) (c : ResultCode) (v : Nat) : (s.setResult c v).pattern = s.pattern := rfl
@[simp] theorem State.setResult_crcAcc (s : State) (c : ResultCode) (v : Nat) : (s.setResult c v).crcAcc = s.crcAcc := rfl
@[simp] theorem State.setResult_cap (s : State) (c : ResultCode) (v : Nat) : (s.setResult c v).cap = s.cap := rfl
@[simp] theorem State.setResult_inReset (s : State) (c : ResultCode) (v : Nat) : (s.setResult c v).inReset = s.inReset := rfl
@[simp] theorem State.setResult_response (s : State) (c : ResultCode) (v : Nat) : (s.setResult c v).response = s.response := rfl
@[simp] theorem State.setResult_pending (s : State) (c : ResultCode) (v : Nat) : (s.setResult c v).pending = s.pending := rfl

/-! ## The bus's answer -/

@[simp] theorem State.respond_buf (s : State) (r : Response) : (s.respond r).buf = s.buf := rfl
@[simp] theorem State.respond_ovf (s : State) (r : Response) : (s.respond r).ovf = s.ovf := rfl
@[simp] theorem State.respond_rcode (s : State) (r : Response) : (s.respond r).rcode = s.rcode := rfl
@[simp] theorem State.respond_rvalue (s : State) (r : Response) : (s.respond r).rvalue = s.rvalue := rfl
@[simp] theorem State.respond_data (s : State) (r : Response) : (s.respond r).data = s.data := rfl
@[simp] theorem State.respond_pattern (s : State) (r : Response) : (s.respond r).pattern = s.pattern := rfl
@[simp] theorem State.respond_crcAcc (s : State) (r : Response) : (s.respond r).crcAcc = s.crcAcc := rfl
@[simp] theorem State.respond_cap (s : State) (r : Response) : (s.respond r).cap = s.cap := rfl
@[simp] theorem State.respond_inReset (s : State) (r : Response) : (s.respond r).inReset = s.inReset := rfl
@[simp] theorem State.respond_response (s : State) (r : Response) : (s.respond r).response = r := rfl
@[simp] theorem State.respond_pending (s : State) (r : Response) : (s.respond r).pending = s.pending := rfl

/-! ## Reset -/

@[simp] theorem State.takeReset_buf (s : State) (level : Bool) : (s.takeReset level).buf = [] := rfl
@[simp] theorem State.takeReset_ovf (s : State) (level : Bool) : (s.takeReset level).ovf = false := rfl
@[simp] theorem State.takeReset_rcode (s : State) (level : Bool) : (s.takeReset level).rcode = 0 := rfl
@[simp] theorem State.takeReset_rvalue (s : State) (level : Bool) : (s.takeReset level).rvalue = 0 := rfl
@[simp] theorem State.takeReset_data (s : State) (level : Bool) : (s.takeReset level).data = 0 := rfl
@[simp] theorem State.takeReset_pattern (s : State) (level : Bool) : (s.takeReset level).pattern = 0x00400004 := rfl
@[simp] theorem State.takeReset_crcAcc (s : State) (level : Bool) : (s.takeReset level).crcAcc = 0xFFFFFFFF := rfl
@[simp] theorem State.takeReset_cap (s : State) (level : Bool) : (s.takeReset level).cap = s.cap := rfl
@[simp] theorem State.takeReset_inReset (s : State) (level : Bool) : (s.takeReset level).inReset = level := rfl
@[simp] theorem State.takeReset_response (s : State) (level : Bool) : (s.takeReset level).response = .none := rfl
@[simp] theorem State.takeReset_pending (s : State) (level : Bool) : (s.takeReset level).pending = s.pending := rfl

/-! ## The state after reset -/

@[simp] theorem State.resetWith_buf (cap : Nat) : (State.resetWith cap).buf = [] := rfl
@[simp] theorem State.resetWith_ovf (cap : Nat) : (State.resetWith cap).ovf = false := rfl
@[simp] theorem State.resetWith_rcode (cap : Nat) : (State.resetWith cap).rcode = 0 := rfl
@[simp] theorem State.resetWith_rvalue (cap : Nat) : (State.resetWith cap).rvalue = 0 := rfl
@[simp] theorem State.resetWith_data (cap : Nat) : (State.resetWith cap).data = 0 := rfl
@[simp] theorem State.resetWith_pattern (cap : Nat) : (State.resetWith cap).pattern = 0x00400004 := rfl
@[simp] theorem State.resetWith_crcAcc (cap : Nat) : (State.resetWith cap).crcAcc = 0xFFFFFFFF := rfl
@[simp] theorem State.resetWith_cap (cap : Nat) : (State.resetWith cap).cap = cap := rfl
@[simp] theorem State.resetWith_inReset (cap : Nat) : (State.resetWith cap).inReset = false := rfl
@[simp] theorem State.resetWith_response (cap : Nat) : (State.resetWith cap).response = .none := rfl
@[simp] theorem State.resetWith_pending (cap : Nat) : (State.resetWith cap).pending = [] := rfl

/-! ## Going on after BusError -/

@[simp] theorem State.afterBusError_buf (s : State) : (s.afterBusError).buf = s.buf := rfl
@[simp] theorem State.afterBusError_ovf (s : State) : (s.afterBusError).ovf = s.ovf := rfl
@[simp] theorem State.afterBusError_rcode (s : State) : (s.afterBusError).rcode = s.rcode := rfl
@[simp] theorem State.afterBusError_rvalue (s : State) : (s.afterBusError).rvalue = s.rvalue := rfl
@[simp] theorem State.afterBusError_data (s : State) : (s.afterBusError).data = s.data := rfl
@[simp] theorem State.afterBusError_pattern (s : State) : (s.afterBusError).pattern = s.pattern := rfl
@[simp] theorem State.afterBusError_crcAcc (s : State) : (s.afterBusError).crcAcc = s.crcAcc := rfl
@[simp] theorem State.afterBusError_cap (s : State) : (s.afterBusError).cap = s.cap := rfl
@[simp] theorem State.afterBusError_inReset (s : State) : (s.afterBusError).inReset = s.inReset := rfl
@[simp] theorem State.afterBusError_response (s : State) : (s.afterBusError).response = s.response := rfl
@[simp] theorem State.afterBusError_pending (s : State) : (s.afterBusError).pending = s.pending.tail := rfl

/-! ## Placing the next operation -/

@[simp] theorem State.withNext_buf (s : State) (e : Encoded) : (s.withNext e).buf = s.buf := rfl
@[simp] theorem State.withNext_ovf (s : State) (e : Encoded) : (s.withNext e).ovf = s.ovf := rfl
@[simp] theorem State.withNext_rcode (s : State) (e : Encoded) : (s.withNext e).rcode = s.rcode := rfl
@[simp] theorem State.withNext_rvalue (s : State) (e : Encoded) : (s.withNext e).rvalue = s.rvalue := rfl
@[simp] theorem State.withNext_data (s : State) (e : Encoded) : (s.withNext e).data = s.data := rfl
@[simp] theorem State.withNext_pattern (s : State) (e : Encoded) : (s.withNext e).pattern = s.pattern := rfl
@[simp] theorem State.withNext_crcAcc (s : State) (e : Encoded) : (s.withNext e).crcAcc = s.crcAcc := rfl
@[simp] theorem State.withNext_cap (s : State) (e : Encoded) : (s.withNext e).cap = s.cap := rfl
@[simp] theorem State.withNext_inReset (s : State) (e : Encoded) : (s.withNext e).inReset = false := rfl
@[simp] theorem State.withNext_response (s : State) (e : Encoded) : (s.withNext e).response = s.response := rfl
@[simp] theorem State.withNext_pending (s : State) (e : Encoded) : (s.withNext e).pending = eventOf e :: s.pending := rfl

/-! ## Receiving a byte touches the FIFO and OVF alone -/

@[simp] theorem State.receive_rcode (s : State) (b : Byte) : (s.receive b).rcode = s.rcode := by
  unfold State.receive; split <;> rfl

@[simp] theorem State.receive_rvalue (s : State) (b : Byte) : (s.receive b).rvalue = s.rvalue := by
  unfold State.receive; split <;> rfl

@[simp] theorem State.receive_data (s : State) (b : Byte) : (s.receive b).data = s.data := by
  unfold State.receive; split <;> rfl

@[simp] theorem State.receive_pattern (s : State) (b : Byte) : (s.receive b).pattern = s.pattern := by
  unfold State.receive; split <;> rfl

@[simp] theorem State.receive_crcAcc (s : State) (b : Byte) : (s.receive b).crcAcc = s.crcAcc := by
  unfold State.receive; split <;> rfl

@[simp] theorem State.receive_cap (s : State) (b : Byte) : (s.receive b).cap = s.cap := by
  unfold State.receive; split <;> rfl

@[simp] theorem State.receive_inReset (s : State) (b : Byte) : (s.receive b).inReset = s.inReset := by
  unfold State.receive; split <;> rfl

@[simp] theorem State.receive_response (s : State) (b : Byte) : (s.receive b).response = s.response := by
  unfold State.receive; split <;> rfl

@[simp] theorem State.receive_pending (s : State) (b : Byte) : (s.receive b).pending = s.pending := by
  unfold State.receive; split <;> rfl

end Sys2Proof.Machine
end

