-- ==== Sys2Proof/Laws/Ops.lean ====
section
/-! SUPPORT. What the shared operations can do, said once: the FIFO's two ends and its bound, the ends of commands and
accesses, and the step. -/

namespace Sys2Proof.Machine

/-! ## The FIFO's two ends -/

theorem State.receive_of_room (s : State) (b : Byte) (h : s.buf.length < s.cap) :
    s.receive b = { s with buf := s.buf ++ [b] } := by
  simp [State.receive, h]

theorem State.receive_of_full (s : State) (b : Byte) (h : s.cap ≤ s.buf.length) :
    s.receive b = { s with buf := [], ovf := true } := by
  simp [State.receive, Nat.not_lt.mpr h]

/-- Receiving a byte keeps the FIFO within its capacity (R24). -/
theorem State.receive_keeps_bound (s : State) (b : Byte) : (s.receive b).buf.length ≤ s.cap := by
  unfold State.receive
  split
  · simpa using ‹s.buf.length < s.cap›
  · simp

/-- Removing from the head keeps the FIFO within any bound it was within (R24). -/
theorem State.removeHead_keeps_bound (s : State) (k : Nat) : (s.removeHead k).buf.length ≤ s.buf.length := by
  simp

theorem removable_le (n : Nat) (buf : List Byte) : removable n buf ≤ buf.length := Nat.min_le_right ..

/-! ## How commands and accesses end -/

theorem State.finishCommand_next_iff (s t : State) (c : ResultCode) (v : Nat) :
    s.finishCommand c v = .next t ↔
      t = { s with rcode := c.bits, rvalue := BitVec.ofNat 16 v, response := .writeOk } := by
  simp [State.finishCommand, State.setResult, State.respond, eq_comm]

theorem State.finishRead_next_iff (s t : State) (v : Word) :
    s.finishRead v = .next t ↔ t = { s with response := .readData v } := by
  simp [State.finishRead, State.respond, eq_comm]

theorem State.finishWrite_next_iff (s t : State) :
    s.finishWrite = .next t ↔ t = { s with response := .writeOk } := by
  simp [State.finishWrite, State.respond, eq_comm]

/-- A value no larger than 65535 is in RESULT.VALUE exactly (R124). -/
theorem State.setResult_value_exact (s : State) (c : ResultCode) (v : Nat) (h : v ≤ 65535) :
    (s.setResult c v).rvalue.toNat = v := by
  simp; omega

/-- Every code RXB writes is one of R66's. -/
theorem ResultCode.bits_le_five (c : ResultCode) : c.bits.toNat ≤ 5 := by
  cases c <;> decide

/-! ## The step -/

theorem step_of_idle (s : State) (h : s.pending = []) : step s = .next s := by
  simp [step, fetch, h]

theorem step_of_push (s : State) (b : Byte) (rest : List Event) (h : s.pending = .push b :: rest)
    (hr : s.inReset = false) : step s = exec (.push b) { s with pending := rest } := by
  simp [step, fetch, h, fetchEvent, hr]

theorem step_of_access (s : State) (a : Access) (rest : List Event) (i : Instr)
    (h : s.pending = .access a :: rest) (hr : s.inReset = false) (hd : decodeAccess a = .ok i) :
    step s = exec i { s with pending := rest } := by
  simp [step, fetch, h, fetchEvent, hr, hd]

theorem step_of_bad_access (s : State) (a : Access) (rest : List Event) (c : BusCause)
    (h : s.pending = .access a :: rest) (hr : s.inReset = false) (hd : decodeAccess a = .error c) :
    step s = .fault (.busError c) := by
  simp [step, fetch, h, fetchEvent, hr, hd]

theorem step_of_assert (s : State) (rest : List Event) (h : s.pending = .assertReset :: rest) :
    step s = .next ({ s with pending := rest }.takeReset true) := by
  simp [step, fetch, h, fetchEvent]

theorem step_of_release (s : State) (rest : List Event) (h : s.pending = .releaseReset :: rest) :
    step s = .next { s with pending := rest, inReset := false } := by
  simp [step, fetch, h, fetchEvent]

/-- All that a step answering a next state can have done: idled, let reset act or keep a byte out, or executed the
instruction of the first pending event. -/
theorem step_next_cases {s t : State} (h : step s = .next t) :
    (s.pending = [] ∧ t = s) ∨
    (∃ rest, s.pending = .assertReset :: rest ∧ t = { s with pending := rest }.takeReset true) ∨
    (∃ rest, s.pending = .releaseReset :: rest ∧ t = { s with pending := rest, inReset := false }) ∨
    (∃ b rest, s.pending = .push b :: rest ∧ s.inReset = true ∧ t = { s with pending := rest }) ∨
    (∃ b rest, s.pending = .push b :: rest ∧ s.inReset = false ∧
      exec (.push b) { s with pending := rest } = .next t) ∨
    (∃ a i rest, s.pending = .access a :: rest ∧ s.inReset = false ∧ decodeAccess a = .ok i ∧
      exec i { s with pending := rest } = .next t) := by
  cases hp : s.pending with
  | nil => rw [step_of_idle s hp] at h; simp_all
  | cons e rest =>
    cases e with
    | assertReset => rw [step_of_assert s rest hp] at h; simp_all
    | releaseReset => rw [step_of_release s rest hp] at h; simp_all
    | push b =>
      cases hr : s.inReset with
      | false => rw [step_of_push s b rest hp hr] at h; simp_all
      | true => simp [step, fetch, hp, fetchEvent, hr] at h; simp_all
    | access a =>
      cases hr : s.inReset with
      | true => simp [step, fetch, hp, fetchEvent, hr] at h
      | false =>
        cases hd : decodeAccess a with
        | error c => rw [step_of_bad_access s a rest c hp hr hd] at h; cases h
        | ok i => rw [step_of_access s a rest i hp hr hd] at h; simp_all

/-! ## Runs -/

theorem runSteps_zero (s : State) : runSteps 0 s = .next s := rfl

theorem runSteps_succ (n : Nat) (s : State) :
    runSteps (n + 1) s =
      match step s with
      | .next t => runSteps n t
      | .fault f => .fault f
      | .refused r => .refused r := by
  have unfolded : ∀ M : Host.Core, ∀ u : M.State, M.run (n + 1) u =
      match M.step u with
      | .next t => M.run n t
      | .fault f => .fault f
      | .refused r => .refused r := fun _ _ => rfl
  have hrun := unfolded core s
  have hstep : core.step s = step s := rfl
  rw [hstep] at hrun
  cases h : step s <;> rw [h] at hrun <;> exact hrun

theorem runSteps_succ_of_next (n : Nat) (s t : State) (h : step s = .next t) :
    runSteps (n + 1) s = runSteps n t := by
  rw [runSteps_succ, h]

/-- A run that answers a next state took a first step that did. -/
theorem runSteps_succ_cases {n : Nat} {s t : State} (h : runSteps (n + 1) s = .next t) :
    ∃ u, step s = .next u ∧ runSteps n u = .next t := by
  rw [runSteps_succ] at h
  cases hs : step s with
  | next u => exact ⟨u, rfl, by rwa [hs] at h⟩
  | fault f => rw [hs] at h; cases h
  | refused r => rw [hs] at h; cases h

end Sys2Proof.Machine
end

