-- ==== Sys2Proof/Laws/PerInstr.lean ====
section
/-! SUPPORT. A statement about every instruction as syntax, one lemma per constructor: its encoding is accepted by its
own row of the opcode table (R68, R71). -/

namespace Sys2Proof.Laws.RowAccepts

/-- The row of the opcode table an instruction stands on accepts the instruction's encoding. -/
def Statement (i : Instr) : Prop := i.tableRow.accepts (encode i) = true

/-- A command word with an argument shows its OP in its low half. -/
theorem cmdWord_low (op : BitVec 4) (arg : BitVec 16) : cmdWord op arg &&& 65535#32 = op.setWidth 32 := by
  unfold cmdWord
  ext k hk
  by_cases h : k < 16
  · interval_cases k <;> simp
  · have : 16 ≤ k := by omega
    interval_cases k <;> simp

theorem nop : Statement .nop := by unfold Statement; decide
theorem clear : Statement .clear := by unfold Statement; decide
theorem consume (n : BitVec 16) : Statement (.consume n) := by
  simp [Statement, encode, Instr.tableRow, TableRow.accepts, Encoded.format, Encoded.bits, cmdWord_low]
theorem peek (i : BitVec 16) : Statement (.peek i) := by
  simp [Statement, encode, Instr.tableRow, TableRow.accepts, Encoded.format, Encoded.bits, cmdWord_low]
theorem peekWord (i : BitVec 16) : Statement (.peekWord i) := by
  simp [Statement, encode, Instr.tableRow, TableRow.accepts, Encoded.format, Encoded.bits, cmdWord_low]
theorem find : Statement .find := by unfold Statement; decide
theorem syncStep : Statement .syncStep := by unfold Statement; decide
theorem crcFifo (a : BitVec 16) : Statement (.crcFifo a) := by
  simp [Statement, encode, Instr.tableRow, TableRow.accepts, Encoded.format, Encoded.bits, cmdWord_low]
theorem crcInit : Statement .crcInit := by unfold Statement; decide
theorem rdStatus : Statement .rdStatus := by unfold Statement; decide
theorem wrStatus (v : Word) : Statement (.wrStatus v) := by
  simp [Statement, encode, Instr.tableRow, TableRow.accepts, Encoded.format, Encoded.bits]
theorem rdResult : Statement .rdResult := by unfold Statement; decide
theorem rdData : Statement .rdData := by unfold Statement; decide
theorem rdPattern : Statement .rdPattern := by unfold Statement; decide
theorem wrPattern (v : Word) : Statement (.wrPattern v) := by
  simp [Statement, encode, Instr.tableRow, TableRow.accepts, Encoded.format, Encoded.bits]
theorem rdCrcAcc : Statement .rdCrcAcc := by unfold Statement; decide
theorem wrCrcAcc (v : Word) : Statement (.wrCrcAcc v) := by
  simp [Statement, encode, Instr.tableRow, TableRow.accepts, Encoded.format, Encoded.bits]
theorem wrCrcData (w : Word) : Statement (.wrCrcData w) := by
  simp [Statement, encode, Instr.tableRow, TableRow.accepts, Encoded.format, Encoded.bits]
theorem rdCapacity : Statement .rdCapacity := by unfold Statement; decide
theorem wrCmd (w : Word) : Statement (.wrCmd w) := by
  simp [Statement, encode, Instr.tableRow, TableRow.accepts, Encoded.format, Encoded.bits]
theorem push (b : Byte) : Statement (.push b) := by
  simp [Statement, encode, Instr.tableRow, TableRow.accepts, Encoded.format]

end Sys2Proof.Laws.RowAccepts
end

