-- ==== Sys2Proof/Tests/Slice0.lean ====
section
/-! SUPPORT. The model's own tests: the well-formedness smoke test, words written out from the spec's encodings, the
spec's worked vectors on single steps (spec/95_test_vectors.md, named beside each), and one witness for every
statement that has hypotheses. -/

namespace Sys2Proof.Tests

open Sys2Proof.Machine

/-! ## Small states -/

/-- A reset RXB of capacity `cap` that holds `bytes`. -/
def holding (cap : Nat) (bytes : List Byte) : State := { State.resetWith cap with buf := bytes }

/-- The same with events waiting. -/
def waiting (cap : Nat) (bytes : List Byte) (events : List Event) : State :=
  { holding cap bytes with pending := events }

/-- The state after, if there is one. -/
def stateAfter : Result → Option State
  | .next t => some t
  | .fault _ => none
  | .refused _ => none

/-- The fault, if there is one. -/
def faultOf : Result → Option Fault
  | .next _ => none
  | .fault f => some f
  | .refused _ => none

/-- The data a read put on the bus. -/
def dataRead (r : Result) : Option Word :=
  match stateAfter r with
  | some t =>
    match t.response with
    | .readData v => some v
    | .writeOk => none
    | .none => none
  | none => none

/-- RESULT after a command, as the master reads it. -/
def resultAfter (r : Result) : Option Word := (stateAfter r).map State.resultWord

/-- The content after. -/
def bufAfter (r : Result) : Option (List Byte) := (stateAfter r).map State.buf

/-- Frame FA of spec/95_test_vectors.md section 2.3. -/
def frameFA : List Byte :=
  [0x04, 0x00, 0x40, 0x00, 0x01, 0x01, 0x00, 0x23, 0x01, 0x56, 0x04, 0x10, 0x20, 0x00, 0x01, 0x00] ++
    List.replicate 48 0x00 ++ [0x00, 0x01, 0x34, 0x12, 0x55, 0x8F, 0x52, 0x1C]

/-! ## Well-formedness: each check refuses an ill-formed term -/

theorem test_wf_refuses_small_capacity : Config.capLegal 3 = false ∧ Config.capLegal 4 = true := by decide
theorem test_wf_refuses_large_capacity : Config.capLegal 65536 = false ∧ Config.capLegal 65535 = true := by decide
theorem test_wf_refuses_odd_base : Config.baseLegal 0x1010 = false ∧ Config.baseLegal 0x1020 = true := by decide
theorem test_wf_refuses_params : Params.wf ⟨3, 0⟩ = false ∧ Params.wf ⟨8, 4⟩ = false ∧ Params.wf ⟨8, 64⟩ = true := by decide

/-! ## Decoding words written out from R62, R71 and R75 -/

/-- The nine commands: OP in bits 3:0, ARG in bits 31:16. -/
theorem test_decode_command_words :
    decode (.cmd 0b00000000000000000000000000000000) = .ok .nop ∧
    decode (.cmd 0b00000000000000000000000000000001) = .ok .clear ∧
    decode (.cmd 0b00000000010010000000000000000010) = .ok (.consume 72) ∧
    decode (.cmd 0b00000000000001010000000000000011) = .ok (.peek 5) ∧
    decode (.cmd 0b00000000010001000000000000000100) = .ok (.peekWord 68) ∧
    decode (.cmd 0b00000000000000000000000000000101) = .ok .find ∧
    decode (.cmd 0b00000000000000000000000000000110) = .ok .syncStep ∧
    decode (.cmd 0b00000000010001000000000000000111) = .ok (.crcFifo 68) ∧
    decode (.cmd 0b00000000000000000000000000001000) = .ok .crcInit := by decide

/-- The eleven descriptors: W in bit 5, the offset in bits 4:0. -/
theorem test_decode_descriptors :
    decode (.bus 0b000100 0) = .ok .rdStatus ∧ decode (.bus 0b100100 0x10000) = .ok (.wrStatus 0x10000) ∧
    decode (.bus 0b001000 0) = .ok .rdResult ∧ decode (.bus 0b001100 0) = .ok .rdData ∧
    decode (.bus 0b010000 0) = .ok .rdPattern ∧ decode (.bus 0b110000 7) = .ok (.wrPattern 7) ∧
    decode (.bus 0b010100 0) = .ok .rdCrcAcc ∧ decode (.bus 0b110100 7) = .ok (.wrCrcAcc 7) ∧
    decode (.bus 0b111000 7) = .ok (.wrCrcData 7) ∧ decode (.bus 0b011100 0) = .ok .rdCapacity ∧
    decode (.bus 0b100000 6) = .ok (.wrCmd 6) := by decide

theorem test_decode_port : decode (.port 0x5A) = .ok (.push 0x5A) := by decide

/-- The illegal words of R76 and the illegal descriptors of R72, each by its name. -/
theorem test_decode_rejects_by_name :
    decode (.cmd 0x00010000) = .error (.illegalCommand .strayArg) ∧
    decode (.cmd 0x00000016) = .error (.illegalCommand .reservedBits) ∧
    decode (.cmd 0x0000000F) = .error (.illegalCommand .reservedOp) ∧
    decode (.cmd 0x00000009) = .error (.illegalCommand .reservedOp) ∧
    decode (.bus 0x00 0) = .error (.busError .direction) ∧ decode (.bus 0x18 0) = .error (.busError .direction) ∧
    decode (.bus 0x28 0) = .error (.busError .direction) ∧ decode (.bus 0x2C 0) = .error (.busError .direction) ∧
    decode (.bus 0x3C 0) = .error (.busError .direction) ∧ decode (.bus 0x22 0) = .error (.busError .misaligned) := by
  decide

/-- The encoder gives R75's words. -/
theorem test_encode_words :
    encode (.consume 72) = .cmd 0x00480002 ∧ encode (.peekWord 68) = .cmd 0x00440004 ∧
    encode (.crcFifo 68) = .cmd 0x00440007 ∧ encode .syncStep = .cmd 0x00000006 ∧
    encode (.wrStatus 0x00010000) = .bus 0x24 0x00010000 := by decide

theorem test_table_words :
    decodeTableWord 32 0x00000005 = some .find ∧ decodeTableWord 8 0x20 = some (.wrCmd 0) ∧
    decodeTableWord 8 0x04 = some .rdStatus ∧ decodeTableWord 8 0x00 = some (.push 0) ∧
    decodeTableWord 8 0xFF = some (.push 0xFF) ∧ decodeTableWord 32 0x0000000F = none := by decide

/-- A word placed after reset is what the step runs: PUSH 0xAA is stored, a FIND word reports NOT_FOUND. -/
theorem test_placed_word_runs :
    bufAfter (step (State.reset.withFetchWord 8 0xAA)) = some [0xAA] ∧
    resultAfter (step (State.reset.withFetchWord 32 0x00000005)) = some 0x00000003 := by decide

/-! ## The CRC unit -/

/-- R86's table against its definition. -/
theorem test_nibble_table : crcTable.toList = (List.range 16).map (fun n => nibbleEntry (BitVec.ofNat 4 n)) := by
  decide

/-- X1, X4, X8, X13. -/
theorem test_word_step_vectors :
    crcWord 0xFFFFFFFF 0x00000000 = 0xC704DD7B ∧ crcWord 0x00000000 0x00000001 = 0x04C11DB7 ∧
    crcWord 0xFFFFFFFF 0x12345678 = 0xDF8A8A2B ∧ crcWord 0xFFFFFFFF 0x00400004 = 0xA22B8A67 := by decide

/-- X28, X29. -/
theorem test_crc_fifo_frame :
    (stateAfter (exec (.crcFifo 70) (holding 128 frameFA))).map (fun t => (t.crcAcc, t.resultWord)) =
      some (0x1C528F55, 0x00440000) := by decide +kernel

/-- X35: the truncated length is still past the content, and CRC_ACC stays. -/
theorem test_crc_fifo_range :
    (stateAfter (exec (.crcFifo 5) (holding 16 [1, 2, 3]))).map (fun t => (t.crcAcc, t.resultWord)) =
      some (0xFFFFFFFF, 0x00000004) := by decide

/-- X40. -/
theorem test_crc_init :
    (stateAfter (exec .crcInit { holding 16 [] with crcAcc := 0x12345678 })).map (fun t => (t.crcAcc, t.resultWord)) =
      some (0xFFFFFFFF, 0) := by decide

/-- X41: RESULT is unchanged. -/
theorem test_crc_data_write :
    (stateAfter (exec (.wrCrcData 0x12345678) { holding 16 [] with rcode := 3 })).map (fun t => (t.crcAcc, t.rcode)) =
      some (0xDF8A8A2B, 3) := by decide

theorem test_crc_acc_write :
    (stateAfter (exec (.wrCrcAcc 0) (holding 16 []))).map State.crcAcc = some 0 := by decide

/-- X44. -/
theorem test_crc_acc_read : dataRead (exec .rdCrcAcc (holding 16 [])) = some 0xFFFFFFFF := by decide

/-! ## The FIFO -/

/-- F1: the last free place. -/
theorem test_push_fills :
    (stateAfter (exec (.push 7) (holding 8 [0, 1, 2, 3, 4, 5, 6]))).map State.statusWord = some 0x00040008 := by decide

/-- R107's example: the overflowing byte is lost, OVF is set. -/
theorem test_push_overflows :
    (stateAfter (exec (.push 8) (holding 8 [0, 1, 2, 3, 4, 5, 6, 7]))).map (fun t => (t.buf, t.statusWord)) =
      some ([], 0x00030000) := by decide

/-- R110's example. -/
theorem test_nop : resultAfter (exec .nop { holding 16 [] with rcode := 3, rvalue := 3 }) = some 0 := by decide

/-- F4 and F7. -/
theorem test_consume :
    (stateAfter (exec (.consume 3) (holding 16 [0xAA, 0xBB, 0xCC, 0xDD]))).map (fun t => (t.buf, t.resultWord)) =
      some ([0xDD], 0x00030000) ∧
    (stateAfter (exec (.consume 9) (holding 16 [0xAA, 0xBB, 0xCC, 0xDD]))).map (fun t => (t.buf, t.resultWord)) =
      some ([], 0x00040000) := by decide

/-- F9, and F10's OVF. -/
theorem test_clear :
    (stateAfter (exec .clear { holding 16 [1, 2, 3] with ovf := true })).map (fun t => (t.buf, t.ovf, t.resultWord)) =
      some ([], true, 0x00030000) := by decide

/-- F14 and F15: the last byte, and one past it, which leaves DATA. -/
theorem test_peek :
    (stateAfter (exec (.peek 2) (holding 16 [1, 2, 3]))).map (fun t => (t.data, t.resultWord)) = some (3, 0) ∧
    (stateAfter (exec (.peek 3) { holding 16 [1, 2, 3] with data := 3 })).map (fun t => (t.data, t.resultWord)) =
      some (3, 4) := by decide

/-- F18, unaligned, and F22, one past the last legal index. -/
theorem test_peek_word :
    (stateAfter (exec (.peekWord 1) (holding 128 frameFA))).map State.data = some 0x01004000 ∧
    (stateAfter (exec (.peekWord 69) { holding 128 frameFA with data := 0x1C528F55 })).map
      (fun t => (t.data, t.resultWord)) = some (0x1C528F55, 4) := by decide

/-- F25: no wrap. -/
theorem test_peek_word_no_wrap : resultAfter (exec (.peekWord 65535) (holding 16 [])) = some 4 := by decide

/-- F26 and R117's example. -/
theorem test_status_read :
    dataRead (exec .rdStatus (holding 16 [])) = some 0x00020000 ∧
    dataRead (exec .rdStatus (holding 8 [0, 1, 2, 3, 4, 5, 6, 7])) = some 0x00040008 := by decide

/-- F11 and F12: bit 16 clears, every other bit is ignored. -/
theorem test_status_write :
    (stateAfter (exec (.wrStatus 0x00010000) { holding 8 [] with ovf := true })).map State.statusWord = some 0x00020000 ∧
    (stateAfter (exec (.wrStatus 0xFFFEFFFF) { holding 8 [1] with ovf := true })).map State.statusWord =
      some 0x00010001 := by decide

/-- R121's example. -/
theorem test_result_read : dataRead (exec .rdResult { holding 16 [] with rvalue := 3 }) = some 0x00030000 := by decide

theorem test_data_read : dataRead (exec .rdData { holding 16 [] with data := 0x00400004 }) = some 0x00400004 := by decide

/-- R123's example. -/
theorem test_capacity_read : dataRead (exec .rdCapacity (holding 128 [])) = some 0x00000080 := by decide

/-! ## The synchronizer -/

/-- S1: the FIND leaves the content, the SYNC_STEP drops two bytes. -/
theorem test_find_and_sync :
    resultAfter (exec .find (holding 16 [0xAA, 0x55, 0x04, 0x00, 0x40, 0x00, 0x01, 0x02])) = some 0x00020002 ∧
    (stateAfter (exec .syncStep (holding 16 [0xAA, 0x55, 0x04, 0x00, 0x40, 0x00, 0x01, 0x02]))).map
      (fun t => (t.buf, t.resultWord)) = some ([0x04, 0x00, 0x40, 0x00, 0x01, 0x02], 0x00020002) := by decide

/-- S9: overlapping windows, the first match wins. -/
theorem test_find_overlapping :
    resultAfter (exec .find { holding 16 [0xBB, 0xAA, 0xAA, 0xAA, 0xAA, 0xAA] with pattern := 0xAAAAAAAA }) =
      some 0x00010002 := by decide

/-- S6 and S7: WAIT keeps three bytes, a split header is lost (R140). -/
theorem test_sync_wait_and_split :
    (stateAfter (exec .syncStep (holding 16 [0x04, 0x00, 0x40]))).map (fun t => (t.buf, t.resultWord)) =
      some ([0x04, 0x00, 0x40], 1) ∧
    (stateAfter (exec .syncStep (holding 16 [0xAA, 0xBB, 0x04, 0x00, 0x40]))).map (fun t => (t.buf, t.resultWord)) =
      some ([], 0x00050003) := by decide

theorem test_pattern_write_and_read :
    (stateAfter (exec (.wrPattern 0x55AA55AA) (holding 16 []))).map State.pattern = some 0x55AA55AA ∧
    dataRead (exec .rdPattern (holding 16 [])) = some 0x00400004 := by decide

/-! ## CMD writes and bus errors -/

/-- E1 and E6. -/
theorem test_cmd_write :
    bufAfter (exec (.wrCmd 0x00480002) (holding 16 [1, 2])) = some [] ∧
    (stateAfter (exec (.wrCmd 0x00050001) (holding 16 [1, 2]))).map (fun t => (t.buf, t.resultWord)) =
      some ([1, 2], 5) := by decide

/-- E7, E9, E10, E11, E12. -/
theorem test_bus_errors :
    faultOf (step (waiting 16 [] [.access ⟨false, 0x00, .word, 0xF, 0⟩])) = some (.busError .direction) ∧
    faultOf (step (waiting 16 [] [.access ⟨true, 0x08, .word, 0xF, 0⟩])) = some (.busError .direction) ∧
    faultOf (step (waiting 16 [] [.access ⟨false, 0x04, .byte, 0x1, 0⟩])) = some (.busError .width) ∧
    faultOf (step (waiting 16 [] [.access ⟨true, 0x02, .word, 0xF, 0x0F⟩])) = some (.busError .misaligned) ∧
    faultOf (step (waiting 16 [] [.access ⟨true, 0x00, .half, 0x3, 0x06⟩])) = some (.busError .width) := by decide

/-- R166: a byte pushed during reset is lost without OVF. -/
theorem test_push_during_reset :
    (stateAfter (step { waiting 8 [] [.push 1] with inReset := true })).map (fun t => (t.buf, t.ovf)) =
      some ([], false) := by decide

/-! ## Witnesses: a state and operands that meet each statement's hypotheses -/

/-- A reset RXB of legal capacity holding no more than it satisfies the invariant. -/
theorem holding_inv (cap : Nat) (bytes : List Byte) (h : 4 ≤ cap ∧ cap ≤ 65535 ∧ bytes.length ≤ cap) :
    (holding cap bytes).Inv := by
  constructor <;> simp [holding, State.resetWith] <;> omega

theorem witness_ResetSetsEveryValue : (waiting 8 [1, 2] [.assertReset]).pending = .assertReset :: [] := rfl

theorem witness_NothingIsTakenDuringReset :
    ({ waiting 8 [] [.push 1] with inReset := true } : State).inReset = true ∧
    ({ waiting 8 [] [.push 1] with inReset := true } : State).pending = .push 1 :: [] ∧
    ({ waiting 8 [] [.access ⟨false, 4, .word, 0xF, 0⟩] with inReset := true } : State).pending =
      .access ⟨false, 4, .word, 0xF, 0⟩ :: [] := by decide

theorem witness_EveryStepKeepsInvariant :
    (waiting 8 [1] [.push 2]).Inv ∧ ∃ t, step (waiting 8 [1] [.push 2]) = .next t ∧ t.buf = [1, 2] :=
  ⟨by constructor <;> simp [waiting, holding, State.resetWith], _, rfl, rfl⟩

theorem witness_LengthNeverExceedsCapacity :
    (holding 4 [1, 2, 3]).buf.length ≤ (holding 4 [1, 2, 3]).cap ∧
    bufAfter (exec (.push 4) (holding 4 [1, 2, 3])) = some [1, 2, 3, 4] ∧
    bufAfter (exec (.push 5) (holding 4 [1, 2, 3, 4])) = some [] := by decide

theorem witness_NeverStuck : (waiting 8 [] [.push 1]).inReset = false := rfl

theorem witness_DecodeInvertsEncode : (Instr.peek 65535).wf = true := rfl

/-- The last legal OP and the first reserved one; RSV and ARG at 0 and 1. -/
theorem witness_CommandWords :
    decodeCommand 0x00000008 = .ok .crcInit ∧ decodeCommand 0x00000009 = .error .reservedOp ∧
    decodeCommand 0x00000018 = .error .reservedBits ∧ decodeCommand 0x00010008 = .error .strayArg ∧
    decodeCommand 0xFFFF0007 = .ok (.crcFifo 65535) ∧ decodeCommand 0x00000017 = .error .reservedBits := by decide

theorem witness_StepRunsDecodedInstruction :
    (waiting 8 [] [.push 1]).pending = .push 1 :: [] ∧
    (waiting 8 [] [.access ⟨false, 0x1C, .word, 0xF, 0⟩]).pending = .access ⟨false, 0x1C, .word, 0xF, 0⟩ :: [] ∧
    decodeAccess ⟨false, 0x1C, .word, 0xF, 0⟩ = .ok .rdCapacity ∧
    (waiting 8 [] [eventOf (.cmd 5)]).pending = eventOf (.cmd 5) :: [] ∧ decode (.cmd 5) = .ok .find ∧
    (waiting 8 [] []).inReset = false := by decide

/-- Each clause at a boundary: the width before alignment, alignment before direction, then the two directions, then
an access that does not fail. -/
theorem witness_BusErrorHasThreeCauses :
    faultOf (step (waiting 8 [] [.access ⟨false, 0x1F, .half, 0xF, 0⟩])) = some (.busError .width) ∧
    faultOf (step (waiting 8 [] [.access ⟨false, 0x04, .word, 0x7, 0⟩])) = some (.busError .width) ∧
    faultOf (step (waiting 8 [] [.access ⟨false, 0x1F, .word, 0xF, 0⟩])) = some (.busError .misaligned) ∧
    faultOf (step (waiting 8 [] [.access ⟨false, 0x18, .word, 0xF, 0⟩])) = some (.busError .direction) ∧
    faultOf (step (waiting 8 [] [.access ⟨true, 0x1C, .word, 0xF, 0⟩])) = some (.busError .direction) ∧
    (stateAfter (step (waiting 8 [] [.access ⟨true, 0x18, .word, 0xF, 0⟩]))).isSome = true := by decide

/-- The window's last register, at a BASE of 0x4000, and the addresses beside the window. -/
theorem witness_WindowReadsReturnRegisters :
    memRead 0x4000 (0x4000 + (0x1C#5).toNat) = some (.access ⟨false, 0x1C, .word, 0xF, 0⟩) ∧
    (waiting 8 [] [.access ⟨false, 0x1C, .word, 0xF, 0⟩]).registerAt 0x1C = some 8 ∧
    busOffset 0x4000 0x401F = some 0x1F ∧ busOffset 0x4000 0x4020 = none ∧ busOffset 0x4000 0x3FFF = none := by decide

theorem witness_ResultReadAfterCommandShowsIt :
    (waiting 8 [] [eventOf (.cmd 5), eventOf (.bus 0x08 0)]).pending =
      eventOf (.cmd 5) :: eventOf (.bus 0x08 0) :: [] := rfl

/-- PUSH at len = CAP - 1 and at len = CAP. -/
theorem witness_PushStoresOrOverflows :
    (holding 4 [1, 2, 3]).buf.length < (holding 4 [1, 2, 3]).cap ∧
    (holding 4 [1, 2, 3, 4]).cap ≤ (holding 4 [1, 2, 3, 4]).buf.length := by decide

/-- A burst that just fits, and one that just does not. -/
theorem witness_BurstLeavesTailAfterOverflows :
    (waiting 4 [1, 2] [.push 3, .push 4]).pending = [3, 4].map Event.push ++ [] ∧
    (waiting 4 [1, 2] [.push 3, .push 4, .push 5]).pending = [3, 4, 5].map Event.push ++ [] ∧
    (waiting 4 [1, 2] [.push 3]).buf.length ≤ (waiting 4 [1, 2] [.push 3]).cap := by decide

theorem witness_invariant_statements : (holding 8 [1, 2, 3]).Inv ∧ (holding 8 []).Inv ∧ (holding 4 [1, 2, 3, 4]).Inv :=
  ⟨holding_inv _ _ (by decide), holding_inv _ _ (by decide), holding_inv _ _ (by decide)⟩

/-- PEEK and PEEK_WORD at the last legal index and one past it. -/
theorem witness_peek_statements :
    (2 : BitVec 16).toNat < (holding 8 [1, 2, 3]).buf.length ∧ (holding 8 [1, 2, 3]).buf.length ≤ (3 : BitVec 16).toNat ∧
    (1 : BitVec 16).toNat + 4 ≤ (holding 8 [1, 2, 3, 4, 5]).buf.length ∧
    (holding 8 [1, 2, 3, 4, 5]).buf.length < (2 : BitVec 16).toNat + 4 := by decide

/-- An access at the offset of STATUS, of full width and of half width. -/
theorem witness_RunsOnAccess :
    (waiting 8 [] [.access ⟨false, 0x04, .word, 0xF, 0⟩]).inReset = false ∧
    Access.fullWord ⟨false, 0x04, .word, 0xF, 0⟩ = true ∧ Access.fullWord ⟨false, 0x04, .half, 0x3, 0⟩ = false := by decide

theorem witness_OnlyWordOfOp : (0x00010005 : Word).toNat % 16 = 5 ∧ (0x00010005 : Word) ≠ 0x00000005 := by decide

/-- A peek past the end: ERR_RANGE, with DATA stale. -/
theorem witness_DataReadReturnsLastPeek :
    (stateAfter (exec (.peek 3) { holding 8 [1, 2, 3] with data := 9 })).map (fun t => (t.rcode, t.data)) =
      some (4, 9) := by decide

theorem witness_CapacityReadIsConstant :
    (holding 8 []).cap ≤ 65535 ∧ (stateAfter (step (waiting 8 [] [.assertReset]))).map State.cap = some 8 := by decide

/-- SYNC_STEP with 3 and with 4 bytes; FIND with a match and with none. -/
theorem witness_scan_statements :
    (holding 8 [1, 2, 3]).buf.length < 4 ∧ 4 ≤ (holding 8 [1, 2, 3, 4]).buf.length ∧
    scan 0x00400004 [0x01, 0x04, 0x00, 0x40, 0x00] = some 1 ∧ scan 0x00400004 [0x04, 0x00, 0x40, 0x01] = none := by decide

/-- The three outcomes of SYNC_STEP, each from a state of its own. -/
theorem witness_SyncStepKeepsFromFirstMatchOn :
    (stateAfter (exec .syncStep (holding 8 [1]))).map State.rcode = some 1 ∧
    (stateAfter (exec .syncStep (holding 8 [1, 0x04, 0x00, 0x40, 0x00]))).map State.rcode = some 2 ∧
    (stateAfter (exec .syncStep (holding 8 [1, 2, 3, 4]))).map State.rcode = some 3 := by decide

/-- The stream of P5, its pattern at 2: six pushes bring it whole, five do not. -/
theorem witness_ConvergenceNeedsWholePattern :
    FirstPatternAt 0x00400004 [0xAA, 0xBB, 0x04, 0x00, 0x40, 0x00] 2 ∧ (holding 16 []).Inv ∧
    (waiting 16 [] ([0xAA, 0xBB, 0x04, 0x00, 0x40, 0x00].map .push ++ [eventOf (.cmd 6)])).pending =
      ([0xAA, 0xBB, 0x04, 0x00, 0x40, 0x00].take 6).map Event.push ++ eventOf (.cmd 0x00000006) :: [] ∧
    (waiting 16 [] ([0xAA, 0xBB, 0x04, 0x00, 0x40].map .push ++ [eventOf (.cmd 6)])).pending =
      ([0xAA, 0xBB, 0x04, 0x00, 0x40, 0x00].take 5).map Event.push ++ eventOf (.cmd 0x00000006) :: [] :=
  ⟨by unfold FirstPatternAt PatternAt; decide, holding_inv _ _ (by decide), rfl, rfl⟩

/-- CRC_FIFO 7 covers exactly the four bytes held; CRC_FIFO 8 one word too many. -/
theorem witness_CrcFifoCoversWholeWords :
    (7 : BitVec 16).toNat - (7 : BitVec 16).toNat % 4 ≤ (holding 8 [1, 2, 3, 4]).buf.length ∧
    (holding 8 [1, 2, 3, 4]).buf.length < (8 : BitVec 16).toNat - (8 : BitVec 16).toNat % 4 := by decide

theorem witness_region_statements :
    (4 ∣ 68) ∧ 68 + 4 ≤ frameFA.length ∧ 72 ≤ (holding 128 frameFA).buf.length ∧
    ([1, 2, 3, 4] : List Byte) ≠ [1, 2, 3, 5] ∧ (4 ∣ ([] : List Byte).length) ∧ ([] : List Byte).length + 4 ≤ 4 := by decide

theorem witness_WordStreamEqualsRegionCrc :
    (4 ∣ ([4, 0, 0x40, 0] : List Byte).length) ∧
    (waiting 8 [] [eventOf (.cmd 8), eventOf (.bus 0x38 0x00400004)]).pending =
      eventOf (.cmd 0x00000008) :: (wordsOf [4, 0, 0x40, 0]).map (fun w => eventOf (.bus 0x38 w)) ++ [] := by decide

/-- OVF rises at a PUSH into a full FIFO, and falls at a STATUS write and at reset. -/
theorem witness_OverflowFlagWriters :
    (stateAfter (step (waiting 4 [1, 2, 3, 4] [.push 5]))).map State.ovf = some true ∧
    (stateAfter (step { waiting 4 [] [eventOf (.bus 0x24 0x00010000)] with ovf := true })).map State.ovf = some false ∧
    (stateAfter (step { waiting 4 [] [.assertReset] with ovf := true })).map State.ovf = some false := by decide

/-- Each of the four writers of the content, through its own row or a CMD write, changes it; so does reset. -/
theorem witness_BufferWriters :
    bufAfter (exec (.push 2) (holding 8 [1])) = some [1, 2] ∧ bufAfter (exec (.wrCmd 1) (holding 8 [1])) = some [] ∧
    bufAfter (exec (.consume 1) (holding 8 [1, 2])) = some [2] ∧
    bufAfter (exec .syncStep (holding 8 [1, 2, 3, 4])) = some [] ∧
    bufAfter (step (waiting 8 [1] [.assertReset])) = some [] := by decide

theorem witness_RegisterWriters :
    (stateAfter (exec (.peek 0) (holding 8 [7]))).map State.data = some 7 ∧
    (stateAfter (exec (.wrPattern 7) (holding 8 []))).map State.pattern = some 7 ∧
    (stateAfter (exec (.wrCrcAcc 7) (holding 8 []))).map State.crcAcc = some 7 ∧
    (stateAfter (exec (.wrCmd 9) (holding 8 []))).map State.rcode = some 5 := by decide

theorem witness_membership_statements :
    Instr.rdCapacity ∈ [Instr.rdStatus, .rdResult, .rdData, .rdPattern, .rdCrcAcc, .rdCapacity] ∧
    Instr.wrStatus 7 ∈ [Instr.wrPattern 7, .wrCrcAcc 7, .wrStatus 7] := by decide

/-- A push and a CONSUME between two states with OVF = 0. -/
theorem witness_ContentIsStreamWithoutOverflow :
    ∃ t, runSteps 2 (waiting 8 [1, 2] [.push 3, eventOf (.cmd 0x00010002)]) = .next t ∧ t.ovf = false ∧
      t.buf = [2, 3] ∧
      ∀ e ∈ (waiting 8 [1, 2] [.push 3, eventOf (.cmd 0x00010002)]).pending.take 2, e.clearsOverflow = false :=
  ⟨_, rfl, rfl, rfl, by decide⟩

theorem witness_SoftResetRestoresAllButData :
    (waiting 8 [1] [eventOf (.cmd 0x00000001), eventOf (.bus 0x24 0x00010000), eventOf (.cmd 0x00000008),
      eventOf (.bus 0x30 0x00400004), eventOf (.cmd 0x00000000)]).inReset = false := rfl

end Sys2Proof.Tests
end

section
/-! The byte order of R13: the value of `le32` and of `byteOf` as natural numbers, and that each undoes the other. -/

namespace Sys2Proof.Machine

/-- A byte put above the `i` bits assembled so far adds its weight: no bit is set twice and none is shifted out. -/
theorem toNat_or_byte_shiftLeft (acc : Word) (b : Byte) (i : Nat) (hi : i ≤ 24) (hacc : acc.toNat < 2 ^ i) :
    (acc ||| b.setWidth 32 <<< i).toNat = acc.toNat + 2 ^ i * b.toNat := by
  have hfits : 2 ^ i * b.toNat < 2 ^ 32 := calc
    2 ^ i * b.toNat < 2 ^ i * 2 ^ 8 := Nat.mul_lt_mul_of_pos_left b.isLt (Nat.two_pow_pos i)
    _ ≤ 2 ^ 24 * 2 ^ 8 := Nat.mul_le_mul_right _ (Nat.pow_le_pow_right (by decide) hi)
  have hshift : (b.setWidth 32 <<< i).toNat = 2 ^ i * b.toNat := by
    rw [BitVec.toNat_shiftLeft, BitVec.toNat_setWidth_of_le (by decide), Nat.shiftLeft_eq, Nat.mul_comm,
      Nat.mod_eq_of_lt hfits]
  rw [BitVec.toNat_or, hshift, Nat.or_comm, ← Nat.two_pow_add_eq_or_of_lt hacc, Nat.add_comm]

theorem toNat_le32 (b0 b1 b2 b3 : Byte) :
    (le32 b0 b1 b2 b3).toNat = b0.toNat + 2 ^ 8 * b1.toNat + 2 ^ 16 * b2.toNat + 2 ^ 24 * b3.toNat := by
  have h0 : (b0.setWidth 32).toNat = b0.toNat := BitVec.toNat_setWidth_of_le (by decide)
  have h1 := toNat_or_byte_shiftLeft (b0.setWidth 32) b1 8 (by decide) (by omega)
  have h2 := toNat_or_byte_shiftLeft _ b2 16 (by decide) (h1.trans_lt (by omega))
  have h3 := toNat_or_byte_shiftLeft _ b3 24 (by decide) (h2.trans_lt (by omega))
  rw [le32, h3, h2, h1, h0]

/-- `byteOf v k` is digit `k` of `v` in base 256. -/
theorem toNat_byteOf (v : Word) (k : Nat) : (byteOf v k).toNat = v.toNat / 2 ^ (8 * k) % 2 ^ 8 := by
  rw [byteOf, BitVec.extractLsb'_toNat, Nat.shiftRight_eq_div_pow]

/-- The four bytes of `le32 b0 b1 b2 b3` are its arguments: they are the base-256 digits of its value. -/
theorem byteOf_le32 (b0 b1 b2 b3 : Byte) :
    byteOf (le32 b0 b1 b2 b3) 0 = b0 ∧ byteOf (le32 b0 b1 b2 b3) 1 = b1 ∧
    byteOf (le32 b0 b1 b2 b3) 2 = b2 ∧ byteOf (le32 b0 b1 b2 b3) 3 = b3 := by
  refine ⟨?_, ?_, ?_, ?_⟩ <;> apply BitVec.eq_of_toNat_eq <;> rw [toNat_byteOf, toNat_le32] <;> omega

/-- A word is assembled from its own four bytes: a number below `2 ^ 32` is the sum of its base-256 digits. -/
theorem le32_byteOf (v : Word) : le32 (byteOf v 0) (byteOf v 1) (byteOf v 2) (byteOf v 3) = v := by
  apply BitVec.eq_of_toNat_eq
  have hv := v.isLt
  simp only [toNat_le32, toNat_byteOf]
  omega

/-- The shift-and-mask form of `byte_k` (R13), for every `k`. -/
theorem byteOf_eq_shiftRight_and (v : Word) (k : Nat) : byteOf v k = ((v >>> (8 * k)) &&& 0xFF).setWidth 8 := by
  apply BitVec.eq_of_toNat_eq
  have hmask (n : Nat) : n &&& 0xFF = n % 2 ^ 8 := Nat.and_two_pow_sub_one_eq_mod n 8
  simp [toNat_byteOf, hmask, Nat.shiftRight_eq_div_pow]

/-- Settles O15: the weights, the two inverse laws and the shift-and-mask form, one lemma each. -/
theorem littleEndianAssembly : Obligations.LittleEndianAssembly := by
  unfold Obligations.LittleEndianAssembly
  exact ⟨fun b0 b1 b2 b3 => ⟨toNat_le32 b0 b1 b2 b3, byteOf_le32 b0 b1 b2 b3⟩,
    fun v => ⟨le32_byteOf v, fun k _ => byteOf_eq_shiftRight_and v k⟩⟩

end Sys2Proof.Machine
end

section
/-! The writers of OVF (R27): what an instruction and then a step can do to the flag, and which accesses decode to a
STATUS write. -/

namespace Sys2Proof

/-- No register access is a PUSH: bytes arrive only at the producer port (R43, R71). -/
theorem decodeDesc_ne_push (desc : BitVec 6) (data : Word) (b : Byte) : decodeDesc desc data ≠ .ok (.push b) := by
  unfold decodeDesc
  split
  · simp
  · split <;> simp

/-- Of R71's rows only descriptor 0x24 is a STATUS write, and the value it writes is the bus's data. -/
theorem desc_of_decodeDesc_wrStatus {desc : BitVec 6} {data v : Word} (h : decodeDesc desc data = .ok (.wrStatus v)) :
    desc = 0x24 ∧ data = v := by
  unfold decodeDesc at h
  split at h
  · cases h
  · split at h <;> cases h
    exact ⟨rfl, rfl⟩

/-- An access that decodes passed the width check, so its descriptor decodes. -/
theorem decodeDesc_of_decodeAccess {a : Access} {i : Instr} (h : decodeAccess a = .ok i) :
    decodeDesc a.desc a.data = .ok i := by
  cases hw : a.fullWord with
  | true => rwa [decodeAccess_of_full a hw] at h
  | false => rw [decodeAccess_of_narrow a hw] at h; cases h

theorem decodeAccess_ne_push (a : Access) (b : Byte) : decodeAccess a ≠ .ok (.push b) := fun h =>
  decodeDesc_ne_push a.desc a.data b (decodeDesc_of_decodeAccess h)

/-- An access that decodes to a STATUS write of `v` writes `v` at offset 0x04 (R71). -/
theorem fields_of_decodeAccess_wrStatus {a : Access} {v : Word} (h : decodeAccess a = .ok (.wrStatus v)) :
    a.write = true ∧ a.off = 0x04 ∧ a.data = v := by
  obtain ⟨hdesc, hdata⟩ := desc_of_decodeDesc_wrStatus (decodeDesc_of_decodeAccess h)
  refine ⟨?_, ?_, hdata⟩
  · rw [← desc_write a.write a.off, ← Access.desc, hdesc]; rfl
  · rw [← desc_off a.write a.off, ← Access.desc, hdesc]; rfl

end Sys2Proof

namespace Sys2Proof.Machine

/-! Every end of an operation keeps the OVF of the state `u` prepared before it; `u` has the OVF of the state `s` the
operation started from. -/

theorem State.finishCommand_keeps_ovf {s u t : State} {c : ResultCode} {v : Nat} (h : u.finishCommand c v = .next t)
    (hu : u.ovf = s.ovf) : t.ovf = s.ovf := by
  rw [(u.finishCommand_next_iff t c v).mp h, ← hu]

theorem State.finishRead_keeps_ovf {s t : State} {v : Word} (h : s.finishRead v = .next t) : t.ovf = s.ovf := by
  rw [(s.finishRead_next_iff t v).mp h]

theorem State.finishWrite_keeps_ovf {s u t : State} (h : u.finishWrite = .next t) (hu : u.ovf = s.ovf) :
    t.ovf = s.ovf := by
  rw [(u.finishWrite_next_iff t).mp h, ← hu]

/-- No command writes OVF (R27): each only prepares another field before it ends. -/
theorem runCommand_keeps_ovf {c : Command} {s t : State} (h : runCommand c s = .next t) : t.ovf = s.ovf := by
  cases c with
  | nop => exact State.finishCommand_keeps_ovf h rfl
  | clear => exact State.finishCommand_keeps_ovf h rfl
  | consume n => exact State.finishCommand_keeps_ovf h rfl
  | crcInit => exact State.finishCommand_keeps_ovf h rfl
  | peek i => simp only [runCommand, execPeek] at h; split at h <;> exact State.finishCommand_keeps_ovf h rfl
  | peekWord i => simp only [runCommand, execPeekWord] at h; split at h <;> exact State.finishCommand_keeps_ovf h rfl
  | find => simp only [runCommand, execFind] at h; split at h <;> exact State.finishCommand_keeps_ovf h rfl
  | crcFifo a => simp only [runCommand, execCrcFifo] at h; split at h <;> exact State.finishCommand_keeps_ovf h rfl
  | syncStep =>
    simp only [runCommand, execSyncStep] at h
    split at h
    · exact State.finishCommand_keeps_ovf h rfl
    · split at h <;> exact State.finishCommand_keeps_ovf h rfl

/-- A CMD write keeps OVF, whether its word is legal or not (R67). -/
theorem execWrCmd_keeps_ovf {w : Word} {s t : State} (h : execWrCmd w s = .next t) : t.ovf = s.ovf := by
  unfold execWrCmd at h
  split at h
  · exact State.finishCommand_keeps_ovf h rfl
  · exact runCommand_keeps_ovf h

/-- A received byte leaves OVF as it is while there is room, and sets it when there is none (R107). -/
theorem State.receive_ovf_cases (s : State) (b : Byte) :
    (s.receive b).ovf = s.ovf ∨ (s.cap ≤ s.buf.length ∧ (s.receive b).ovf = true) := by
  obtain hroom | hfull := Nat.lt_or_ge s.buf.length s.cap
  · exact .inl (by rw [s.receive_of_room b hroom])
  · exact .inr ⟨hfull, by rw [s.receive_of_full b hfull]⟩

/-- A STATUS write clears OVF when bit 16 is 1 and leaves it as it is otherwise (R69). -/
theorem execWrStatus_ovf_cases {v : Word} {s t : State} (h : execWrStatus v s = .next t) :
    t.ovf = s.ovf ∨ (v.getLsbD 16 = true ∧ t.ovf = false) := by
  have hovf : t.ovf = (s.ovf && !v.getLsbD 16) := by rw [(State.finishWrite_next_iff _ t).mp h]; rfl
  cases hbit : v.getLsbD 16 with
  | false => exact .inl (by rw [hovf, hbit, Bool.not_false, Bool.and_true])
  | true => exact .inr ⟨rfl, by rw [hovf, hbit, Bool.not_true, Bool.and_false]⟩

/-- All that an instruction can do to OVF: keep it, set it as a PUSH without room, or clear it as a STATUS write with
bit 16 (R27). -/
theorem exec_ovf_cases {i : Instr} {s t : State} (h : exec i s = .next t) :
    t.ovf = s.ovf ∨
    (∃ b, i = .push b ∧ s.cap ≤ s.buf.length ∧ t.ovf = true) ∨
    (∃ v, i = .wrStatus v ∧ v.getLsbD 16 = true ∧ t.ovf = false) := by
  cases i with
  | push b =>
    obtain rfl : s.receive b = t := Host.Outcome.next.inj h
    exact (s.receive_ovf_cases b).imp_right fun hset => .inl ⟨b, rfl, hset⟩
  | wrStatus v => exact (execWrStatus_ovf_cases h).imp_right fun hcleared => .inr ⟨v, rfl, hcleared⟩
  | wrCmd w => exact .inl (execWrCmd_keeps_ovf h)
  | nop => exact .inl (runCommand_keeps_ovf (c := .nop) h)
  | clear => exact .inl (runCommand_keeps_ovf (c := .clear) h)
  | consume n => exact .inl (runCommand_keeps_ovf (c := .consume n) h)
  | peek x => exact .inl (runCommand_keeps_ovf (c := .peek x) h)
  | peekWord x => exact .inl (runCommand_keeps_ovf (c := .peekWord x) h)
  | find => exact .inl (runCommand_keeps_ovf (c := .find) h)
  | syncStep => exact .inl (runCommand_keeps_ovf (c := .syncStep) h)
  | crcFifo a => exact .inl (runCommand_keeps_ovf (c := .crcFifo a) h)
  | crcInit => exact .inl (runCommand_keeps_ovf (c := .crcInit) h)
  | wrPattern v => exact .inl (State.finishWrite_keeps_ovf h rfl)
  | wrCrcAcc v => exact .inl (State.finishWrite_keeps_ovf h rfl)
  | wrCrcData w => exact .inl (State.finishWrite_keeps_ovf h rfl)
  | rdStatus => exact .inl (State.finishRead_keeps_ovf h)
  | rdResult => exact .inl (State.finishRead_keeps_ovf h)
  | rdData => exact .inl (State.finishRead_keeps_ovf h)
  | rdPattern => exact .inl (State.finishRead_keeps_ovf h)
  | rdCrcAcc => exact .inl (State.finishRead_keeps_ovf h)
  | rdCapacity => exact .inl (State.finishRead_keeps_ovf h)

/-- All that a step can do to OVF: keep it, set it at a PUSH without room outside reset, or clear it at reset or at a
STATUS write with bit 16 (R27). -/
theorem step_ovf_cases {s t : State} (h : step s = .next t) :
    t.ovf = s.ovf ∨
    (t.ovf = true ∧ ∃ b rest, s.pending = .push b :: rest ∧ s.inReset = false ∧ s.cap ≤ s.buf.length) ∨
    (t.ovf = false ∧ ((∃ rest, s.pending = .assertReset :: rest) ∨
      ∃ a rest, s.pending = .access a :: rest ∧ a.write = true ∧ a.off = 0x04 ∧ a.data.getLsbD 16 = true)) := by
  obtain ⟨-, rfl⟩ | ⟨rest, hassert, rfl⟩ | ⟨rest, -, rfl⟩ | ⟨b, rest, -, -, rfl⟩ |
    ⟨b, rest, hpush, hreset, hexec⟩ | ⟨a, i, rest, haccess, -, hdecode, hexec⟩ := step_next_cases h
  · exact .inl rfl
  · exact .inr (.inr ⟨rfl, .inl ⟨rest, hassert⟩⟩)
  · exact .inl rfl
  · exact .inl rfl
  · obtain hkept | ⟨_, _, hfull, hset⟩ | ⟨_, hwrites, _⟩ := exec_ovf_cases hexec
    · exact .inl hkept
    · exact .inr (.inl ⟨hset, b, rest, hpush, hreset, hfull⟩)
    · cases hwrites
  · obtain hkept | ⟨b, rfl, _⟩ | ⟨v, rfl, hbit, hcleared⟩ := exec_ovf_cases hexec
    · exact .inl hkept
    · exact absurd hdecode (decodeAccess_ne_push a b)
    · obtain ⟨hwrite, hoff, rfl⟩ := fields_of_decodeAccess_wrStatus hdecode
      exact .inr (.inr ⟨hcleared, .inr ⟨a, rest, haccess, hwrite, hoff, hbit⟩⟩)

/-- Settles O51: of the three cases of `step_ovf_cases`, only the PUSH ends with OVF = 1 where it was 0, and only
reset and the STATUS write with OVF = 0 where it was 1. -/
theorem overflowFlagWriters : Obligations.OverflowFlagWriters := by
  unfold Obligations.OverflowFlagWriters
  intro s t h
  obtain hkept | ⟨hset, hpush⟩ | ⟨hcleared, hclearer⟩ := step_ovf_cases h
  · simp +contextual [hkept]
  · exact ⟨fun _ _ => hpush, by simp [hset]⟩
  · exact ⟨by simp [hcleared], fun _ _ => hclearer⟩

end Sys2Proof.Machine
end

section
/-! The register reads (R49): the value each puts on the bus, and that an earlier answer on the bus is no part of it. -/

namespace Sys2Proof.Machine

/-! ## What each read answers -/

@[simp] theorem exec_rdStatus (s : State) : exec .rdStatus s = s.finishRead s.statusWord := rfl
@[simp] theorem exec_rdResult (s : State) : exec .rdResult s = s.finishRead s.resultWord := rfl
@[simp] theorem exec_rdData (s : State) : exec .rdData s = s.finishRead s.data := rfl
@[simp] theorem exec_rdPattern (s : State) : exec .rdPattern s = s.finishRead s.pattern := rfl
@[simp] theorem exec_rdCrcAcc (s : State) : exec .rdCrcAcc s = s.finishRead s.crcAcc := rfl
@[simp] theorem exec_rdCapacity (s : State) : exec .rdCapacity s = s.finishRead s.capacityWord := rfl

/-! ## The composed register values do not depend on the bus's answer -/

@[simp] theorem State.respond_statusWord (s : State) (r : Response) : (s.respond r).statusWord = s.statusWord := rfl
@[simp] theorem State.respond_resultWord (s : State) (r : Response) : (s.respond r).resultWord = s.resultWord := rfl
@[simp] theorem State.respond_capacityWord (s : State) (r : Response) :
    (s.respond r).capacityWord = s.capacityWord := rfl

/-- A second answer on the bus replaces the first. -/
@[simp] theorem State.respond_respond (s : State) (r r' : Response) : (s.respond r).respond r' = s.respond r' := rfl

/-! ## Reading twice -/

/-- An instruction that ends as a read of `value`, where `value` does not depend on the bus's answer, changes only that
answer, and run again answers the same. -/
theorem exec_read_twice {i : Instr} {value : State → Word} (hread : ∀ s, exec i s = s.finishRead (value s))
    (hvalue : ∀ s r, value (State.respond s r) = value s) (s : State) :
    ∃ v, exec i s = .next { s with response := .readData v } ∧
      exec i { s with response := .readData v } = .next { s with response := .readData v } := by
  refine ⟨value s, hread s, ?_⟩
  calc exec i (s.respond (.readData (value s)))
    _ = (s.respond (.readData (value s))).finishRead (value s) := by rw [hread, hvalue]
    _ = .next (s.respond (.readData (value s))) := by rw [State.finishRead, State.respond_respond]

/-- Settles O54: each of the six reads ends as a read of a value that no answer on the bus changes. -/
theorem readsHaveNoSideEffects : Obligations.ReadsHaveNoSideEffects := by
  unfold Obligations.ReadsHaveNoSideEffects
  intro i hi
  simp only [List.mem_cons, List.not_mem_nil, or_false] at hi
  obtain rfl | rfl | rfl | rfl | rfl | rfl := hi
  · exact exec_read_twice exec_rdStatus State.respond_statusWord
  · exact exec_read_twice exec_rdResult State.respond_resultWord
  · exact exec_read_twice exec_rdData State.respond_data
  · exact exec_read_twice exec_rdPattern State.respond_pattern
  · exact exec_read_twice exec_rdCrcAcc State.respond_crcAcc
  · exact exec_read_twice exec_rdCapacity State.respond_capacityWord

end Sys2Proof.Machine
end

section
/-! The legal register accesses (R71): the descriptor as a number, and the rows that the decoder of descriptors
answers. -/

namespace Sys2Proof

/-- R71's descriptor table, each row with the instruction it gives for the bus data `data`. -/
def legalAccesses (data : Word) : List (Nat × Instr) :=
  [(0x20, .wrCmd data), (0x04, .rdStatus), (0x24, .wrStatus data), (0x08, .rdResult), (0x0C, .rdData),
    (0x10, .rdPattern), (0x30, .wrPattern data), (0x14, .rdCrcAcc), (0x34, .wrCrcAcc data),
    (0x38, .wrCrcData data), (0x1C, .rdCapacity)]

/-- `desc = W << 5 | off` as arithmetic: the offset fills the five bits below W (R71). -/
theorem Access.toNat_desc (a : Access) : a.desc.toNat = 32 * a.write.toNat + a.off.toNat := by
  rw [Access.desc, BitVec.toNat_append, BitVec.toNat_ofBool, ← Nat.shiftLeft_add_eq_or_of_lt a.off.isLt,
    Nat.shiftLeft_eq, Nat.mul_comm]

/-- What a descriptor decodes to stands beside it in the table: each arm of the decoder is a row. -/
theorem mem_legalAccesses_of_decodeDesc {desc : BitVec 6} {data : Word} {i : Instr}
    (h : decodeDesc desc data = .ok i) : (desc.toNat, i) ∈ legalAccesses data := by
  unfold decodeDesc at h
  split at h
  · cases h
  · split at h <;> cases h <;> simp [legalAccesses]

/-- Each row of the table is an arm of the decoder. -/
theorem decodeDesc_of_mem_legalAccesses {desc : BitVec 6} {data : Word} {i : Instr}
    (h : (desc.toNat, i) ∈ legalAccesses data) : decodeDesc desc data = .ok i := by
  have hdesc {n : Nat} (hn : desc.toNat = n) : desc = BitVec.ofNat 6 n := by rw [← hn, BitVec.ofNat_toNat, BitVec.setWidth_eq]
  simp only [legalAccesses, List.mem_cons, List.not_mem_nil, or_false, Prod.mk.injEq] at h
  obtain ⟨hn, rfl⟩ | ⟨hn, rfl⟩ | ⟨hn, rfl⟩ | ⟨hn, rfl⟩ | ⟨hn, rfl⟩ | ⟨hn, rfl⟩ | ⟨hn, rfl⟩ | ⟨hn, rfl⟩ | ⟨hn, rfl⟩ |
    ⟨hn, rfl⟩ | ⟨hn, rfl⟩ := h <;> rw [hdesc hn] <;> rfl

/-- The decoder of descriptors is R71's table. -/
theorem decodeDesc_eq_ok_iff (desc : BitVec 6) (data : Word) (i : Instr) :
    decodeDesc desc data = .ok i ↔ (desc.toNat, i) ∈ legalAccesses data :=
  ⟨mem_legalAccesses_of_decodeDesc, decodeDesc_of_mem_legalAccesses⟩

/-- Settles O9: a full-word access decodes by its descriptor, and the descriptor by the table. -/
theorem legalDescriptorsAreTheEleven : Obligations.LegalDescriptorsAreTheEleven := by
  unfold Obligations.LegalDescriptorsAreTheEleven
  intro write off data i
  rw [decodeAccess_of_full _ rfl, decodeDesc_eq_ok_iff, Access.toNat_desc]
  rfl

end Sys2Proof
end

section
/-! The legality of a command word (R63 to R65): its three fields as numbers, the check each OP asks for, and what a CMD
write does in either case. -/

namespace Sys2Proof

/-! ## The fields of a command word (R60) -/

theorem toNat_cmdOp (w : Word) : (cmdOp w).toNat = w.toNat % 16 := by
  rw [cmdOp, BitVec.extractLsb'_toNat, Nat.shiftRight_zero]

theorem toNat_cmdRsv (w : Word) : (cmdRsv w).toNat = w.toNat / 16 % 4096 := by
  rw [cmdRsv, BitVec.extractLsb'_toNat, Nat.shiftRight_eq_div_pow]

theorem toNat_cmdArg (w : Word) : (cmdArg w).toNat = w.toNat / 65536 := by
  rw [cmdArg, BitVec.extractLsb'_toNat, Nat.shiftRight_eq_div_pow]
  have hw := w.isLt
  omega

theorem cmdRsv_eq_zero_iff (w : Word) : cmdRsv w = 0 ↔ w.toNat / 16 % 4096 = 0 := by
  rw [← BitVec.toNat_inj, toNat_cmdRsv]
  rfl

theorem cmdArg_eq_zero_iff (w : Word) : cmdArg w = 0 ↔ w.toNat / 65536 = 0 := by
  rw [← BitVec.toNat_inj, toNat_cmdArg]
  rfl

/-! ## Which words are commands -/

/-- R63, R64, R65: OP is reserved, RSV is not 0, or OP takes no argument and ARG is not 0. -/
def IllegalWord (w : Word) : Prop :=
  9 ≤ w.toNat % 16 ∨ w.toNat / 16 % 4096 ≠ 0 ∨ (w.toNat % 16 ∈ [0, 1, 5, 6, 8] ∧ w.toNat / 65536 ≠ 0)

theorem checkRsv_isOk_iff (w : Word) (c : Command) :
    (checkRsv w c).isOk = true ↔ w.toNat / 16 % 4096 = 0 := by
  rw [← cmdRsv_eq_zero_iff, checkRsv]
  split
  case isTrue h => exact iff_of_true rfl h
  case isFalse h => exact iff_of_false Bool.false_ne_true h

theorem checkNoArg_isOk_iff (w : Word) (c : Command) :
    (checkNoArg w c).isOk = true ↔ w.toNat / 16 % 4096 = 0 ∧ w.toNat / 65536 = 0 := by
  rw [← cmdRsv_eq_zero_iff, ← cmdArg_eq_zero_iff, checkNoArg]
  split
  case isTrue hrsv => exact iff_of_false Bool.false_ne_true fun h => hrsv h.1
  case isFalse hrsv =>
    split
    case isTrue harg => exact iff_of_false Bool.false_ne_true fun h => harg h.2
    case isFalse harg => exact iff_of_true rfl ⟨not_not.mp hrsv, not_not.mp harg⟩

/-- The check that each OP asks for: none is enough for a reserved one, and only the commands without an argument have
their ARG checked (R62, R63, R65). -/
theorem decodeCommand_cases (w : Word) :
    (9 ≤ w.toNat % 16 ∧ decodeCommand w = .error .reservedOp) ∨
    (w.toNat % 16 ∈ [0, 1, 5, 6, 8] ∧ ∃ c, decodeCommand w = checkNoArg w c) ∨
    (w.toNat % 16 ∈ [2, 3, 4, 7] ∧ ∃ c, decodeCommand w = checkRsv w c) := by
  rw [← toNat_cmdOp, decodeCommand]
  generalize cmdOp w = op
  split
  · exact .inr (.inl ⟨by decide, .nop, rfl⟩)
  · exact .inr (.inl ⟨by decide, .clear, rfl⟩)
  · exact .inr (.inr ⟨by decide, .consume (cmdArg w), rfl⟩)
  · exact .inr (.inr ⟨by decide, .peek (cmdArg w), rfl⟩)
  · exact .inr (.inr ⟨by decide, .peekWord (cmdArg w), rfl⟩)
  · exact .inr (.inl ⟨by decide, .find, rfl⟩)
  · exact .inr (.inl ⟨by decide, .syncStep, rfl⟩)
  · exact .inr (.inr ⟨by decide, .crcFifo (cmdArg w), rfl⟩)
  · exact .inr (.inl ⟨by decide, .crcInit, rfl⟩)
  · exact .inl ⟨by revert op; decide, rfl⟩

/-- A word decodes to a command exactly when none of R63, R64 and R65 makes it illegal. -/
theorem decodeCommand_isOk_iff (w : Word) : (decodeCommand w).isOk = true ↔ ¬ IllegalWord w := by
  unfold IllegalWord
  obtain ⟨hop, hdec⟩ | ⟨hop, c, hdec⟩ | ⟨hop, c, hdec⟩ := decodeCommand_cases w
  · rw [hdec]
    exact iff_of_false Bool.false_ne_true (not_not.mpr (.inl hop))
  · have hlt : ¬ 9 ≤ w.toNat % 16 := by
      simp only [List.mem_cons, List.not_mem_nil, or_false] at hop
      omega
    rw [hdec, checkNoArg_isOk_iff]
    simp only [hlt, hop, true_and, false_or]
    tauto
  · simp only [List.mem_cons, List.not_mem_nil, or_false] at hop ⊢
    rw [hdec, checkRsv_isOk_iff]
    omega

end Sys2Proof

namespace Sys2Proof.Machine

/-! ## What a CMD write does with its word (R67) -/

/-- A CMD write of a word that is no command ends with (ERR_CMD, 0). -/
theorem exec_wrCmd_of_error {w : Word} {e : CmdIllegal} (h : decodeCommand w = .error e) (s : State) :
    exec (.wrCmd w) s = .next s.withErrCmd := by
  change execWrCmd w s = _
  rw [execWrCmd, h]
  rfl

/-- A command is executed the same in its own row of the table. -/
theorem exec_toInstr (c : Command) (s : State) : exec c.toInstr s = runCommand c s := by
  cases c <;> rfl

/-- A CMD write of a command's word is that command's execution (R60). -/
theorem exec_wrCmd_of_ok {w : Word} {c : Command} (h : decodeCommand w = .ok c) (s : State) :
    exec (.wrCmd w) s = exec c.toInstr s := by
  change execWrCmd w s = _
  rw [execWrCmd, h, exec_toInstr]

/-- Every command completes (R161). -/
theorem runCommand_completes (c : Command) (s : State) : ∃ t, runCommand c s = .next t := by
  cases c with
  | nop => exact ⟨_, rfl⟩
  | clear => exact ⟨_, rfl⟩
  | consume n => exact ⟨_, rfl⟩
  | crcInit => exact ⟨_, rfl⟩
  | peek i => rw [runCommand, execPeek]; split <;> exact ⟨_, rfl⟩
  | peekWord i => rw [runCommand, execPeekWord]; split <;> exact ⟨_, rfl⟩
  | find => rw [runCommand, execFind]; split <;> exact ⟨_, rfl⟩
  | crcFifo a => rw [runCommand, execCrcFifo]; split <;> exact ⟨_, rfl⟩
  | syncStep =>
    rw [runCommand, execSyncStep]
    split
    · exact ⟨_, rfl⟩
    · split <;> exact ⟨_, rfl⟩

/-- A CMD write of an illegal word ends with (ERR_CMD, 0), because the word decodes to no command. -/
theorem exec_wrCmd_of_illegalWord {w : Word} (h : IllegalWord w) (s : State) :
    exec (.wrCmd w) s = .next s.withErrCmd := by
  cases hdec : decodeCommand w with
  | error e => exact exec_wrCmd_of_error hdec s
  | ok c => exact absurd h ((decodeCommand_isOk_iff w).mp (by rw [hdec]; rfl))

/-- A CMD write of any other word completes in the state in which the command it decodes to completes. -/
theorem exec_wrCmd_of_not_illegalWord {w : Word} (h : ¬ IllegalWord w) (s : State) :
    ∃ c t, decodeCommand w = .ok c ∧ exec c.toInstr s = .next t ∧ exec (.wrCmd w) s = .next t := by
  have hok := (decodeCommand_isOk_iff w).mpr h
  cases hdec : decodeCommand w with
  | error e => rw [hdec] at hok; cases hok
  | ok c =>
    obtain ⟨t, ht⟩ := runCommand_completes c s
    rw [← exec_toInstr] at ht
    exact ⟨c, t, rfl, ht, (exec_wrCmd_of_ok hdec s).trans ht⟩

/-- Settles O11: the condition is `IllegalWord`, and each branch is what a CMD write does there. -/
theorem illegalCommandWordsReportErrCmd : Obligations.IllegalCommandWordsReportErrCmd := by
  unfold Obligations.IllegalCommandWordsReportErrCmd
  intro w s
  split
  case isTrue h => exact exec_wrCmd_of_illegalWord h s
  case isFalse h => exact exec_wrCmd_of_not_illegalWord h s

end Sys2Proof.Machine
end

section
/-! The CRC functions (R86, R87, R91): the nibble table against its definition from P, the word step of equal operands,
and CrcBytes one word at a time. -/

namespace Sys2Proof.Machine

/-! ## The nibble table (R86) -/

/-- One bit of the reduction with bit 31 read from the number's value. -/
theorem crcBit_eq (c : Word) : crcBit c = if c.toNat / 2 ^ 31 = 1 then (c <<< 1) ^^^ 0x04C11DB7 else c <<< 1 := by
  have hmsb : c.msb = true ↔ c.toNat / 2 ^ 31 = 1 := by
    rw [BitVec.msb_eq_decide, decide_eq_true_iff]
    have hc := c.isLt
    omega
  rw [crcBit, if_congr hmsb rfl rfl, crcPoly]

/-- The ROM holds what R86 computes from P. -/
theorem nibbleTable_eq_nibbleEntry : ∀ n : BitVec 4, nibbleTable n = nibbleEntry n := by decide

/-- The 16 nibbles in order read the ROM from its first word to its last. -/
theorem map_nibbleTable_range : (List.range 16).map (fun n => nibbleTable (BitVec.ofNat 4 n)) = crcTable.toList := by
  decide

/-- Settles O37: the ROM is R86's definition, whose one-bit step is `crcBit`. -/
theorem nibbleTableIsComputedFromPolynomial : Obligations.NibbleTableIsComputedFromPolynomial := by
  unfold Obligations.NibbleTableIsComputedFromPolynomial
  refine ⟨fun n => ?_, map_nibbleTable_range⟩
  rw [nibbleTable_eq_nibbleEntry, nibbleEntry, funext crcBit_eq]

/-! ## The word step (R87) -/

@[simp] theorem crcNibble_zero : crcNibble 0 = 0 := by decide

/-- The step of equal operands reduces 0 and stays there (R92 (b)). -/
@[simp] theorem crcWord_self (a : Word) : crcWord a a = 0 := by
  rw [crcWord, BitVec.xor_self]
  exact Function.iterate_fixed crcNibble_zero 8

/-! ## The byte region (R91) -/

@[simp] theorem crcBytes_zero (bytes : List Byte) : crcBytes bytes 0 = crcSeed := rfl

/-- Four bytes further on, a region of whole words has one more word. -/
theorem wordsOf_take_add_four (bytes : List Byte) (m : Nat) (hm : 4 ∣ m) (h : m + 4 ≤ bytes.length) :
    wordsOf (bytes.take (m + 4)) =
      wordsOf (bytes.take m) ++ [le32 bytes[m] bytes[m + 1] bytes[m + 2] bytes[m + 3]] := by
  have hfour : (bytes.drop m).take 4 = [bytes[m], bytes[m + 1], bytes[m + 2], bytes[m + 3]] := by
    rw [List.drop_eq_getElem_cons (by omega), List.drop_eq_getElem_cons (by omega),
      List.drop_eq_getElem_cons (by omega), List.drop_eq_getElem_cons (by omega)]
    rfl
  have hwhole : 4 ∣ (bytes.take m).length := by rwa [List.length_take_of_le (by omega)]
  rw [List.take_add, hfour, wordsOf_append _ _ hwhole]
  rfl

/-- CrcBytes over one more word is one word step. -/
theorem crcBytes_add_four (bytes : List Byte) (m : Nat) (hm : 4 ∣ m) (h : m + 4 ≤ bytes.length) :
    crcBytes bytes (m + 4) =
      crcWord (crcBytes bytes m) (le32 bytes[m] bytes[m + 1] bytes[m + 2] bytes[m + 3]) := by
  rw [crcBytes, wordsOf_take_add_four bytes m hm h, List.foldl_concat]
  rfl

/-- Settles O41: no bytes leave the seed, and each further word is one step. -/
theorem regionCrcStepsWordByWord : Obligations.RegionCrcStepsWordByWord := by
  unfold Obligations.RegionCrcStepsWordByWord
  exact ⟨crcBytes_zero, fun bytes m hm h => crcBytes_add_four bytes m hm h⟩

end Sys2Proof.Machine
end

section
/-! How an instruction is reached from the ports (R60, R71): the word of OP and ARG decoded back into its fields, and
what is enough for `RunsOnAccess`, `RunsOnCommandWord` and `OnlyWordOfOp`. -/

namespace Sys2Proof

/-! ## The word of an OP and an ARG (R60) -/

/-- The two fields of a command word with RSV = 0 share no bit, so the word is their sum. -/
theorem toNat_cmdWord (op : BitVec 4) (arg : BitVec 16) : (cmdWord op arg).toNat = op.toNat + 2 ^ 16 * arg.toNat := by
  have hop : op.toNat < 2 ^ 16 := op.isLt.trans (by decide)
  have harg : 2 ^ 16 * arg.toNat < 2 ^ 32 := by have := arg.isLt; omega
  have hshift : (arg.setWidth 32 <<< 16).toNat = 2 ^ 16 * arg.toNat := by
    rw [BitVec.toNat_shiftLeft, BitVec.toNat_setWidth_of_le (by decide), Nat.shiftLeft_eq, Nat.mul_comm,
      Nat.mod_eq_of_lt harg]
  rw [cmdWord, BitVec.toNat_or, hshift, BitVec.toNat_setWidth_of_le (by decide), Nat.or_comm,
    ← Nat.two_pow_add_eq_or_of_lt hop, Nat.add_comm]

@[simp] theorem cmdOp_cmdWord (op : BitVec 4) (arg : BitVec 16) : cmdOp (cmdWord op arg) = op := by
  have hop := op.isLt
  apply BitVec.eq_of_toNat_eq
  rw [toNat_cmdOp, toNat_cmdWord]
  omega

@[simp] theorem cmdRsv_cmdWord (op : BitVec 4) (arg : BitVec 16) : cmdRsv (cmdWord op arg) = 0 := by
  have hop := op.isLt
  rw [cmdRsv_eq_zero_iff, toNat_cmdWord]
  omega

@[simp] theorem cmdArg_cmdWord (op : BitVec 4) (arg : BitVec 16) : cmdArg (cmdWord op arg) = arg := by
  have hop := op.isLt
  apply BitVec.eq_of_toNat_eq
  rw [toNat_cmdArg, toNat_cmdWord]
  omega

/-- OP 0x7 with any ARG is CRC_FIFO of that ARG (R62, R94). -/
theorem decodeCommand_crcFifo (a : BitVec 16) : decodeCommand (cmdWord 0x7 a) = .ok (.crcFifo a) := by
  simp [decodeCommand, checkRsv]

end Sys2Proof

namespace Sys2Proof.Machine

/-! ## From the decoder to the ports -/

/-- Where the descriptor of a direction and an offset decodes to an instruction, a full-word access runs it, and a
narrower one fails the width check. -/
theorem runsOnAccess_of_decodeDesc {write : Bool} {off : BitVec 5} {instr : Word → Instr}
    (h : ∀ data, decodeDesc (BitVec.ofBool write ++ off) data = .ok (instr data)) : RunsOnAccess write off instr := by
  intro s a rest hpending hreset hwrite hoff
  refine ⟨fun hfull => ?_, fun hnarrow => ?_⟩
  · have hdecode : decodeAccess a = .ok (instr a.data) := by
      rw [decodeAccess_of_full a hfull, Access.desc, hwrite, hoff, h]
    exact step_of_access s a rest _ hpending hreset hdecode
  · exact step_of_bad_access s a rest _ hpending hreset (decodeAccess_of_narrow a hnarrow)

/-- A word that decodes to a command runs that command's instruction. -/
theorem runsOnCommandWord_of_decodeCommand {w : Word} {c : Command} (h : decodeCommand w = .ok c) :
    RunsOnCommandWord w c.toInstr := exec_wrCmd_of_ok h

/-- An OP that takes no argument has one legal word, the OP itself: in any other RSV or ARG is not 0 (R63, R64). -/
theorem onlyWordOfOp_of_noArg {op : Nat} (hop : op ∈ [0, 1, 5, 6, 8]) : OnlyWordOfOp op (BitVec.ofNat 32 op) := by
  intro w hw hne s
  have hfields : w.toNat / 16 % 4096 ≠ 0 ∨ w.toNat / 65536 ≠ 0 := by
    by_contra hzero
    refine hne (BitVec.eq_of_toNat_eq ?_)
    rw [BitVec.toNat_ofNat]
    omega
  exact exec_wrCmd_of_illegalWord (.inr (hfields.imp_right fun harg => ⟨hw ▸ hop, harg⟩)) s

/-! ## How an operation's end is written out -/

theorem State.finishCommand_eq (s : State) (c : ResultCode) (v : Nat) :
    s.finishCommand c v = .next { s with rcode := c.bits, rvalue := BitVec.ofNat 16 v, response := .writeOk } :=
  (s.finishCommand_next_iff _ c v).mpr rfl

theorem State.finishRead_eq (s : State) (v : Word) : s.finishRead v = .next { s with response := .readData v } :=
  (s.finishRead_next_iff _ v).mpr rfl

theorem State.finishWrite_eq (s : State) : s.finishWrite = .next { s with response := .writeOk } :=
  (s.finishWrite_next_iff _).mpr rfl

/-- A command that ends out of range leaves `withErrRange` (R147). -/
theorem State.finishCommand_errRange (s : State) : s.finishCommand .errRange 0 = .next s.withErrRange :=
  s.finishCommand_eq .errRange 0

end Sys2Proof.Machine
end

section
/-! The CRC unit's operations (R93 to R99): what each leaves, and how it is reached. -/

namespace Sys2Proof.Machine

/-! ## CRC_INIT (R93) -/

@[simp] theorem exec_crcInit (s : State) : exec .crcInit s = { s with crcAcc := crcSeed }.finishCommand .ok 0 := rfl

/-- Settles O44: word 8 decodes to CRC_INIT and is OP 8's only legal word; the command's end leaves the seed and
(OK, 0). -/
theorem crcInitSeedsAccumulator : Obligations.CrcInitSeedsAccumulator := by
  unfold Obligations.CrcInitSeedsAccumulator
  refine ⟨runsOnCommandWord_of_decodeCommand (c := .crcInit) (by decide), onlyWordOfOp_of_noArg (by decide),
    fun s => ?_⟩
  rw [exec_crcInit, State.finishCommand_eq]
  rfl

/-! ## CRC_FIFO (R94 to R96) -/

/-- A covered length fits RESULT.VALUE. -/
theorem coveredLength_le (a : BitVec 16) : coveredLength a ≤ 65535 := by
  have ha := a.isLt
  rw [coveredLength_eq]
  omega

theorem exec_crcFifo_of_le {a : BitVec 16} {s : State} (h : coveredLength a ≤ s.buf.length) :
    exec (.crcFifo a) s =
      { s with crcAcc := crcBytes s.buf (coveredLength a) }.finishCommand .ok (coveredLength a) := if_pos h

theorem exec_crcFifo_of_lt {a : BitVec 16} {s : State} (h : s.buf.length < coveredLength a) :
    exec (.crcFifo a) s = .next s.withErrRange :=
  (if_neg (Nat.not_le.mpr h)).trans s.finishCommand_errRange

/-- Settles O45: the covered length is `a` less `a mod 4`; held, its CRC and its own value are written, and beyond what
is held the command ends out of range. -/
theorem crcFifoCoversWholeWords : Obligations.CrcFifoCoversWholeWords := by
  unfold Obligations.CrcFifoCoversWholeWords
  refine ⟨fun a => runsOnCommandWord_of_decodeCommand (decodeCommand_crcFifo a), fun a s => ?_⟩
  rw [← coveredLength_eq]
  refine ⟨fun hheld => ?_, exec_crcFifo_of_lt⟩
  rw [exec_crcFifo_of_le hheld, State.finishCommand_eq]
  exact ⟨_, rfl, rfl, State.setResult_value_exact s .ok _ (coveredLength_le a)⟩

/-! ## The accumulator's registers (R97 to R99) -/

@[simp] theorem exec_wrCrcData (w : Word) (s : State) :
    exec (.wrCrcData w) s = { s with crcAcc := crcWord s.crcAcc w }.finishWrite := rfl

@[simp] theorem exec_wrCrcAcc (v : Word) (s : State) : exec (.wrCrcAcc v) s = { s with crcAcc := v }.finishWrite := rfl

/-- Settles O46: descriptor 0x38 decodes to the CRC_DATA write, which is one word step; a step of CRC_ACC's own value
gives 0. -/
theorem crcDataWriteStepsAccumulator : Obligations.CrcDataWriteStepsAccumulator := by
  unfold Obligations.CrcDataWriteStepsAccumulator
  refine ⟨runsOnAccess_of_decodeDesc fun _ => rfl, fun w s => ?_, fun s => ?_⟩
  · rw [exec_wrCrcData, State.finishWrite_eq]
  · rw [exec_wrCrcData, State.finishWrite_eq, crcWord_self]

/-- Settles O47: descriptor 0x34 decodes to the CRC_ACC write, which loads the accumulator. -/
theorem crcAccWriteLoadsAccumulator : Obligations.CrcAccWriteLoadsAccumulator := by
  unfold Obligations.CrcAccWriteLoadsAccumulator
  refine ⟨runsOnAccess_of_decodeDesc fun _ => rfl, fun v s => ?_⟩
  rw [exec_wrCrcAcc, State.finishWrite_eq]

/-- Settles O48: descriptor 0x14 decodes to the CRC_ACC read, which ends as a read of the accumulator; reset leaves
0xFFFFFFFF in it. -/
theorem crcAccReadReturnsAccumulator : Obligations.CrcAccReadReturnsAccumulator := by
  unfold Obligations.CrcAccReadReturnsAccumulator
  have hread (s : State) : exec .rdCrcAcc s = .next { s with response := .readData s.crcAcc } := by
    rw [exec_rdCrcAcc, State.finishRead_eq]
  exact ⟨runsOnAccess_of_decodeDesc fun _ => rfl, hread, hread State.reset⟩

end Sys2Proof.Machine
end

section
/-! What the end of an instruction can be, said once for all rows of the table: a received byte, a command's end, an
ERR_CMD write or a register access; and the frame of each. -/

namespace Sys2Proof.Machine

/-! ## The frame of a command -/

/-- A command that ends from a state `u` in which it has removed `k` bytes from the head of `s`, and written DATA and
CRC_ACC at most, leaves OVF, PATTERN and the fields that are not RXB's. -/
theorem State.finishCommand_frame {s u t : State} {code : ResultCode} {v k : Nat}
    (h : u.finishCommand code v = .next t)
    (hu : u = { s with buf := s.buf.drop k, data := u.data, crcAcc := u.crcAcc }) :
    t = { s with
      buf := s.buf.drop k, rcode := t.rcode, rvalue := t.rvalue, data := t.data, crcAcc := t.crcAcc
      response := .writeOk } := by
  obtain rfl := (u.finishCommand_next_iff t code v).mp h
  rw [hu]

/-- What a command leaves: it takes its `removedByCommand` bytes from the head, writes RESULT, DATA and CRC_ACC at
most, and the bus answers OK (R106, R147). -/
theorem runCommand_frame {c : Command} {s t : State} (h : runCommand c s = .next t) :
    t = { s with
      buf := s.buf.drop (removedByCommand c s), rcode := t.rcode, rvalue := t.rvalue, data := t.data
      crcAcc := t.crcAcc, response := .writeOk } := by
  cases c with
  | nop => exact State.finishCommand_frame h rfl
  | clear => exact State.finishCommand_frame h (by rw [removedByCommand, List.drop_length])
  | consume n => exact State.finishCommand_frame h rfl
  | crcInit => exact State.finishCommand_frame h rfl
  | peek i => simp only [runCommand, execPeek] at h; split at h <;> exact State.finishCommand_frame h rfl
  | peekWord i => simp only [runCommand, execPeekWord] at h; split at h <;> exact State.finishCommand_frame h rfl
  | find => simp only [runCommand, execFind] at h; split at h <;> exact State.finishCommand_frame h rfl
  | crcFifo a => simp only [runCommand, execCrcFifo] at h; split at h <;> exact State.finishCommand_frame h rfl
  | syncStep =>
    simp only [runCommand, execSyncStep] at h
    split at h
    next hshort => exact State.finishCommand_frame h (by rw [removedByCommand, if_pos hshort]; rfl)
    next hlong =>
      split at h
      next hscan =>
        exact State.finishCommand_frame h
          (by rw [removedByCommand, if_neg hlong, hscan, Option.getD_none, List.drop_length])
      next r hscan =>
        exact State.finishCommand_frame h (by rw [removedByCommand, if_neg hlong, hscan]; rfl)

/-- The bytes a command leaves in the FIFO. -/
theorem runCommand_buf {c : Command} {s t : State} (h : runCommand c s = .next t) :
    t.buf = s.buf.drop (removedByCommand c s) := congrArg State.buf (runCommand_frame h)

/-- Only CLEAR, CONSUME and SYNC_STEP take bytes from the FIFO (R106). -/
theorem command_of_removedByCommand_ne_zero {c : Command} {s : State} (h : removedByCommand c s ≠ 0) :
    c = .clear ∨ (∃ n, c = .consume n) ∨ c = .syncStep := by
  cases c with
  | clear => exact .inl rfl
  | consume n => exact .inr (.inl ⟨n, rfl⟩)
  | syncStep => exact .inr (.inr rfl)
  | nop | peek | peekWord | find | crcFifo | crcInit => exact absurd rfl h

/-! ## The four kinds of instruction -/

/-- All that an instruction can do: receive a byte, perform a command, refuse an illegal command word with ERR_CMD, or,
as a register access, write OVF, PATTERN or CRC_ACC at most, and answer on the bus. -/
theorem exec_next_cases {i : Instr} {s t : State} (h : exec i s = .next t) :
    (∃ b, i = .push b ∧ t = s.receive b) ∨
    (∃ c, Performs i c ∧ runCommand c s = .next t) ∨
    (∃ w, i = .wrCmd w ∧ t = s.withErrCmd) ∨
    t = { s with ovf := t.ovf, pattern := t.pattern, crcAcc := t.crcAcc, response := t.response } := by
  cases i with
  | push b => exact .inl ⟨b, rfl, (Host.Outcome.next.inj h).symm⟩
  | nop => exact .inr (.inl ⟨.nop, .inl rfl, h⟩)
  | clear => exact .inr (.inl ⟨.clear, .inl rfl, h⟩)
  | consume n => exact .inr (.inl ⟨.consume n, .inl rfl, h⟩)
  | peek x => exact .inr (.inl ⟨.peek x, .inl rfl, h⟩)
  | peekWord x => exact .inr (.inl ⟨.peekWord x, .inl rfl, h⟩)
  | find => exact .inr (.inl ⟨.find, .inl rfl, h⟩)
  | syncStep => exact .inr (.inl ⟨.syncStep, .inl rfl, h⟩)
  | crcFifo a => exact .inr (.inl ⟨.crcFifo a, .inl rfl, h⟩)
  | crcInit => exact .inr (.inl ⟨.crcInit, .inl rfl, h⟩)
  | wrCmd w =>
    cases hdec : decodeCommand w with
    | ok c =>
      rw [exec_wrCmd_of_ok hdec, exec_toInstr] at h
      exact .inr (.inl ⟨c, .inr ⟨w, rfl, hdec⟩, h⟩)
    | error e =>
      rw [exec_wrCmd_of_error hdec] at h
      exact .inr (.inr (.inl ⟨w, rfl, (Host.Outcome.next.inj h).symm⟩))
  | wrStatus | wrPattern | wrCrcAcc | wrCrcData =>
    obtain rfl := (State.finishWrite_next_iff _ t).mp h
    exact .inr (.inr (.inr rfl))
  | rdStatus | rdResult | rdData | rdPattern | rdCrcAcc | rdCapacity =>
    obtain rfl := (s.finishRead_next_iff t _).mp h
    exact .inr (.inr (.inr rfl))

/-! ## CAP (R33) -/

theorem exec_keeps_cap {i : Instr} {s t : State} (h : exec i s = .next t) : t.cap = s.cap := by
  obtain ⟨b, -, rfl⟩ | ⟨c, -, hrun⟩ | ⟨w, -, rfl⟩ | haccess := exec_next_cases h
  · exact s.receive_cap b
  · rw [runCommand_frame hrun]
  · rfl
  · rw [haccess]

theorem step_keeps_cap {s t : State} (h : step s = .next t) : t.cap = s.cap := by
  obtain ⟨-, rfl⟩ | ⟨rest, -, rfl⟩ | ⟨rest, -, rfl⟩ | ⟨b, rest, -, -, rfl⟩ | ⟨b, rest, -, -, hexec⟩ |
    ⟨a, i, rest, -, -, -, hexec⟩ := step_next_cases h
  · rfl
  · rfl
  · rfl
  · rfl
  · rw [exec_keeps_cap hexec]
  · rw [exec_keeps_cap hexec]

end Sys2Proof.Machine
end

section
/-! The FIFO's operations (R107 to R115): PUSH, and the commands NOP, CONSUME, CLEAR, PEEK and PEEK_WORD. -/

namespace Sys2Proof

/-! ## The command words that take an argument (R62) -/

theorem decodeCommand_consume (n : BitVec 16) : decodeCommand (cmdWord 0x2 n) = .ok (.consume n) := by
  simp [decodeCommand, checkRsv]

theorem decodeCommand_peek (i : BitVec 16) : decodeCommand (cmdWord 0x3 i) = .ok (.peek i) := by
  simp [decodeCommand, checkRsv]

theorem decodeCommand_peekWord (i : BitVec 16) : decodeCommand (cmdWord 0x4 i) = .ok (.peekWord i) := by
  simp [decodeCommand, checkRsv]

end Sys2Proof

namespace Sys2Proof.Machine

/-- A content within a legal CAP has a length that 16 bits hold. -/
theorem State.Inv.length_le {s : State} (h : s.Inv) : s.buf.length ≤ 65535 := h.lengthLe.trans h.capHigh

/-! ## PUSH (R107) -/

@[simp] theorem exec_push (b : Byte) (s : State) : exec (.push b) s = .next (s.receive b) := rfl

/-- Settles O17: a step on a pushed byte receives it, with room or without. -/
theorem pushStoresOrOverflows : Obligations.PushStoresOrOverflows := by
  unfold Obligations.PushStoresOrOverflows
  refine ⟨fun s b rest => step_of_push s b rest, fun b s => ⟨fun hroom => ?_, fun hfull => ?_⟩⟩
  · rw [exec_push, s.receive_of_room b hroom]
  · rw [exec_push, s.receive_of_full b hfull]

/-! ## NOP (R110) -/

@[simp] theorem exec_nop (s : State) : exec .nop s = s.finishCommand .ok 0 := rfl

/-- Settles O19: word 0 decodes to NOP and is OP 0's only legal word; NOP is nothing but a command's end. -/
theorem nopWritesOnlyResult : Obligations.NopWritesOnlyResult := by
  unfold Obligations.NopWritesOnlyResult
  refine ⟨runsOnCommandWord_of_decodeCommand (c := .nop) (by decide), onlyWordOfOp_of_noArg (by decide), fun s => ?_⟩
  rw [exec_nop, State.finishCommand_eq]
  rfl

/-! ## CONSUME (R111) and CLEAR (R112) -/

@[simp] theorem exec_consume (n : BitVec 16) (s : State) :
    exec (.consume n) s = (s.removeHead (removable n.toNat s.buf)).finishCommand .ok (removable n.toNat s.buf) := rfl

@[simp] theorem exec_clear (s : State) : exec .clear s = { s with buf := [] }.finishCommand .ok s.buf.length := rfl

/-- Settles O20: the head that is dropped is no longer than the content, so RESULT.VALUE is its exact length. -/
theorem consumeRemovesHead : Obligations.ConsumeRemovesHead := by
  unfold Obligations.ConsumeRemovesHead
  refine ⟨fun n => runsOnCommandWord_of_decodeCommand (decodeCommand_consume n), fun n s hinv => ?_⟩
  have hfits : removable n.toNat s.buf ≤ 65535 := (removable_le _ _).trans hinv.length_le
  rw [exec_consume, State.finishCommand_eq]
  refine ⟨_, rfl, rfl, State.setResult_value_exact s .ok _ hfits, List.length_drop, fun j => ?_⟩
  rw [Nat.add_comm]
  exact List.getElem?_drop

/-- A CONSUME of at least what is held removes everything, as CLEAR does. -/
theorem exec_consume_of_length_le {n : BitVec 16} {s : State} (h : s.buf.length ≤ n.toNat) :
    exec (.consume n) s = exec .clear s := by
  have hall : removable n.toNat s.buf = s.buf.length := Nat.min_eq_right h
  rw [exec_consume, exec_clear, hall, State.removeHead, List.drop_length]

/-- Settles O21: CLEAR reports the exact length, and no content is longer than 65535 bytes. -/
theorem clearDiscardsEveryByte : Obligations.ClearDiscardsEveryByte := by
  unfold Obligations.ClearDiscardsEveryByte
  refine ⟨runsOnCommandWord_of_decodeCommand (c := .clear) (by decide), onlyWordOfOp_of_noArg (by decide),
    fun s hinv => ⟨?_, (exec_consume_of_length_le hinv.length_le).symm⟩⟩
  rw [exec_clear, State.finishCommand_eq]
  exact ⟨_, rfl, rfl, State.setResult_value_exact s .ok _ hinv.length_le⟩

/-! ## PEEK (R114) -/

theorem exec_peek_of_lt {i : BitVec 16} {s : State} (h : i.toNat < s.buf.length) :
    exec (.peek i) s = { s with data := s.buf[i.toNat].setWidth 32 }.finishCommand .ok 0 := by
  change execPeek i s = _
  rw [execPeek, byteAt, List.getElem?_eq_getElem h]

theorem exec_peek_of_le {i : BitVec 16} {s : State} (h : s.buf.length ≤ i.toNat) :
    exec (.peek i) s = .next s.withErrRange := by
  change execPeek i s = _
  rw [execPeek, byteAt, List.getElem?_eq_none h]
  exact s.finishCommand_errRange

/-- Settles O22: the byte at a held index goes to DATA, and there is none at any other. -/
theorem peekReadsByte : Obligations.PeekReadsByte := by
  unfold Obligations.PeekReadsByte
  refine ⟨fun i => runsOnCommandWord_of_decodeCommand (decodeCommand_peek i), fun i s =>
    ⟨fun hheld => ?_, exec_peek_of_le⟩⟩
  rw [exec_peek_of_lt hheld, State.finishCommand_eq]
  rfl

/-! ## PEEK_WORD (R115) -/

theorem exec_peekWord_of_le {i : BitVec 16} {s : State} (h : i.toNat + 4 ≤ s.buf.length) :
    exec (.peekWord i) s =
      { s with data := le32 s.buf[i.toNat] s.buf[i.toNat + 1] s.buf[i.toNat + 2] s.buf[i.toNat + 3] }.finishCommand
        .ok 0 := by
  change execPeekWord i s = _
  rw [execPeekWord, wordAt_of_le s.buf i.toNat h]

theorem exec_peekWord_of_lt {i : BitVec 16} {s : State} (h : s.buf.length < i.toNat + 4) :
    exec (.peekWord i) s = .next s.withErrRange := by
  change execPeekWord i s = _
  rw [execPeekWord, wordAt_of_lt s.buf i.toNat h]
  exact s.finishCommand_errRange

/-- Settles O23: four held bytes go to DATA as their word, and fewer form none. -/
theorem peekWordReadsLittleEndianWord : Obligations.PeekWordReadsLittleEndianWord := by
  unfold Obligations.PeekWordReadsLittleEndianWord
  refine ⟨fun i => runsOnCommandWord_of_decodeCommand (decodeCommand_peekWord i), fun i s =>
    ⟨fun hheld => ?_, exec_peekWord_of_lt⟩⟩
  rw [exec_peekWord_of_le hheld, State.finishCommand_eq]
  rfl

/-- A PEEK or PEEK_WORD ends with OK, or out of range and then with nothing but RESULT and the answer written. -/
theorem exec_peek_or_peekWord_cases {i : BitVec 16} {s t : State}
    (h : exec (.peek i) s = .next t ∨ exec (.peekWord i) s = .next t) : t.rcode = 0 ∨ t = s.withErrRange := by
  obtain hpeek | hword := h
  · obtain hheld | hpast := Nat.lt_or_ge i.toNat s.buf.length
    · rw [exec_peek_of_lt hheld, State.finishCommand_next_iff] at hpeek
      exact .inl (congrArg State.rcode hpeek)
    · rw [exec_peek_of_le hpast] at hpeek
      exact .inr (Host.Outcome.next.inj hpeek).symm
  · obtain hpast | hheld := Nat.lt_or_ge s.buf.length (i.toNat + 4)
    · rw [exec_peekWord_of_lt hpast] at hword
      exact .inr (Host.Outcome.next.inj hword).symm
    · rw [exec_peekWord_of_le hheld, State.finishCommand_next_iff] at hword
      exact .inl (congrArg State.rcode hword)

end Sys2Proof.Machine
end

section
/-! The registers that show the FIFO (R117 to R123): the numbers STATUS, RESULT and CAPACITY read as, and the STATUS
write. -/

namespace Sys2Proof.Machine

/-! ## STATUS (R117, R120) -/

/-- A flag put above the `k` bits assembled so far adds its weight. -/
theorem toNat_or_flagBit (acc : Word) (b : Bool) (k : Nat) (hk : k ≤ 24) (hacc : acc.toNat < 2 ^ k) :
    (acc ||| flagBit b k).toNat = acc.toNat + if b then 2 ^ k else 0 := by
  have hbyte : flagBit b k = ((BitVec.ofBool b).setWidth 8).setWidth 32 <<< k := by cases b <;> rfl
  rw [hbyte, toNat_or_byte_shiftLeft acc _ k hk hacc]
  cases b <;> simp

/-- STATUS as a number: LEN is below 2^16, so the three flags stand in bits of their own above it (R26). -/
theorem State.toNat_statusWord {s : State} (hlen : s.buf.length ≤ 65535) :
    s.statusWord.toNat = s.buf.length + (if s.ovf then 2 ^ 16 else 0) + (if s.isEmpty then 2 ^ 17 else 0) +
      (if s.isFull then 2 ^ 18 else 0) := by
  have h0 : ((BitVec.ofNat 16 s.buf.length).setWidth 32).toNat = s.buf.length := by
    rw [BitVec.toNat_setWidth_of_le (by decide), BitVec.toNat_ofNat, Nat.mod_eq_of_lt (by omega)]
  have h1 := toNat_or_flagBit _ s.ovf 16 (by decide) (h0.trans_lt (by omega))
  have h2 := toNat_or_flagBit _ s.isEmpty 17 (by decide) (h1.trans_lt (by split <;> omega))
  have h3 := toNat_or_flagBit _ s.isFull 18 (by decide) (h2.trans_lt (by split <;> split at h1 <;> omega))
  rw [State.statusWord, h3, h2, h1, h0]

/-- Settles O25: descriptor 0x04 decodes to the STATUS read; EMPTY and FULL are what their sum's conditions say. -/
theorem statusReadShowsFlags : Obligations.StatusReadShowsFlags := by
  unfold Obligations.StatusReadShowsFlags
  refine ⟨runsOnAccess_of_decodeDesc fun _ => rfl, fun s hinv => ⟨s.statusWord, s.finishRead_eq _, ?_⟩⟩
  rw [State.toNat_statusWord hinv.length_le]
  simp only [State.isEmpty, State.isFull, beq_iff_eq]

@[simp] theorem exec_wrStatus (v : Word) (s : State) :
    exec (.wrStatus v) s = { s with ovf := ovfAfterStatusWrite v s.ovf }.finishWrite := rfl

/-- Writing 1 to bit 16 clears OVF; the bit is read from the number's value (R69). -/
theorem ovfAfterStatusWrite_eq (v : Word) (ovf : Bool) :
    ovfAfterStatusWrite v ovf = if v.toNat / 2 ^ 16 % 2 = 1 then false else ovf := by
  rw [ovfAfterStatusWrite, BitVec.getLsbD, Nat.testBit_eq_decide_div_mod_eq]
  split
  case isTrue hbit => rw [decide_eq_true hbit, Bool.not_true, Bool.and_false]
  case isFalse hbit => rw [decide_eq_false hbit, Bool.not_false, Bool.and_true]

/-- Settles O27: descriptor 0x24 decodes to the STATUS write, which writes OVF alone. -/
theorem statusWriteClearsOverflow : Obligations.StatusWriteClearsOverflow := by
  unfold Obligations.StatusWriteClearsOverflow
  refine ⟨runsOnAccess_of_decodeDesc fun _ => rfl, fun v s => ?_⟩
  rw [exec_wrStatus, State.finishWrite_eq, ovfAfterStatusWrite_eq]

/-! ## RESULT (R121), DATA (R122) and CAPACITY (R123) -/

/-- CODE and VALUE stand in RESULT as OP and ARG do in a command word. -/
theorem State.resultWord_eq_cmdWord (s : State) : s.resultWord = cmdWord s.rcode s.rvalue := rfl

/-- Settles O28: descriptor 0x08 decodes to the RESULT read, and the two fields are summed as a command word's are. -/
theorem resultReadShowsCodeAndValue : Obligations.ResultReadShowsCodeAndValue := by
  unfold Obligations.ResultReadShowsCodeAndValue
  refine ⟨runsOnAccess_of_decodeDesc fun _ => rfl, fun s => ⟨s.resultWord, s.finishRead_eq _, ?_⟩⟩
  rw [State.resultWord_eq_cmdWord, toNat_cmdWord]

/-- Settles O29: descriptor 0x0C decodes to the DATA read; a peek that ends with ERR_RANGE has not ended with OK, so it
has left DATA. -/
theorem dataReadReturnsLastPeek : Obligations.DataReadReturnsLastPeek := by
  unfold Obligations.DataReadReturnsLastPeek
  refine ⟨runsOnAccess_of_decodeDesc fun _ => rfl, fun s => s.finishRead_eq s.data, fun i s t hpeek hrange => ?_⟩
  obtain hok | rfl := exec_peek_or_peekWord_cases hpeek
  · exact absurd (hok.symm.trans hrange) (by decide)
  · exact s.withErrRange.finishRead_eq s.data

theorem State.toNat_capacityWord {s : State} (hcap : s.cap ≤ 65535) : s.capacityWord.toNat = s.cap := by
  rw [State.capacityWord, BitVec.toNat_setWidth_of_le (by decide), BitVec.toNat_ofNat, Nat.mod_eq_of_lt (by omega)]

/-- Settles O30: descriptor 0x1C decodes to the CAPACITY read; CAP fits 16 bits, and every step keeps it. -/
theorem capacityReadIsConstant : Obligations.CapacityReadIsConstant := by
  unfold Obligations.CapacityReadIsConstant
  exact ⟨runsOnAccess_of_decodeDesc fun _ => rfl,
    fun s hcap => ⟨s.capacityWord, s.finishRead_eq _, State.toNat_capacityWord hcap⟩,
    fun s t => step_keeps_cap⟩

end Sys2Proof.Machine
end

section
/-! The writers of the FIFO content (R106), from the four kinds of instruction. -/

namespace Sys2Proof.Machine

/-- What a received byte does to the content (R107). -/
theorem State.receive_buf_cases (s : State) (b : Byte) :
    (s.receive b).buf = s.buf ++ [b] ∨ (s.cap ≤ s.buf.length ∧ (s.receive b).buf = []) := by
  obtain hroom | hfull := Nat.lt_or_ge s.buf.length s.cap
  · exact .inl (by rw [s.receive_of_room b hroom])
  · exact .inr ⟨hfull, by rw [s.receive_of_full b hfull]⟩

/-- A command that changes the content is CLEAR, which empties it, or CONSUME or SYNC_STEP, which drop bytes from its
head. -/
theorem runCommand_changes_buf {c : Command} {s t : State} (h : runCommand c s = .next t) (hne : t.buf ≠ s.buf) :
    (c = .clear ∧ t.buf = []) ∨ ((∃ n, c = .consume n) ∧ ∃ k, t.buf = s.buf.drop k) ∨
      (c = .syncStep ∧ ∃ k, t.buf = s.buf.drop k) := by
  have hbuf := runCommand_buf h
  have hremoves : removedByCommand c s ≠ 0 := fun hzero => hne (by rw [hbuf, hzero, List.drop_zero])
  obtain rfl | hconsume | hsync := command_of_removedByCommand_ne_zero hremoves
  · exact .inl ⟨rfl, hbuf.trans List.drop_length⟩
  · exact .inr (.inl ⟨hconsume, _, hbuf⟩)
  · exact .inr (.inr ⟨hsync, _, hbuf⟩)

/-- Settles O52: of the four kinds of instruction only a PUSH and a command can change the content; reset empties
it. -/
theorem bufferWriters : Obligations.BufferWriters := by
  unfold Obligations.BufferWriters
  refine ⟨fun i s t h hne => ?_, fun s t h ⟨rest, hassert⟩ => ?_⟩
  · obtain ⟨b, rfl, rfl⟩ | ⟨c, hperforms, hrun⟩ | ⟨w, -, rfl⟩ | haccess := exec_next_cases h
    · exact .inl ⟨b, rfl, s.receive_buf_cases b⟩
    · obtain ⟨rfl, hempty⟩ | ⟨⟨n, rfl⟩, hdrop⟩ | ⟨rfl, hdrop⟩ := runCommand_changes_buf hrun hne
      · exact .inr (.inl ⟨hperforms, hempty⟩)
      · exact .inr (.inr (.inl ⟨⟨n, hperforms⟩, hdrop⟩))
      · exact .inr (.inr (.inr ⟨hperforms, hdrop⟩))
    · exact absurd rfl hne
    · exact absurd (congrArg State.buf haccess) hne
  · rw [step_of_assert s rest hassert] at h
    exact (congrArg State.buf (Host.Outcome.next.inj h)).symm

end Sys2Proof.Machine
end

section
/-! The synchronizer (R130 to R135): where the pattern stands decides what FIND and SYNC_STEP end with, and the
PATTERN register. -/

namespace Sys2Proof.Machine

/-! ## Where the pattern stands (R130) -/

/-- The scan decides it: the pattern has a first occurrence, or it stands nowhere. -/
theorem exists_firstPatternAt_or_nowhere (pattern : Word) (buf : List Byte) :
    (∃ r, FirstPatternAt pattern buf r) ∨ ∀ j, ¬ PatternAt pattern buf j := by
  cases hscan : scan pattern buf with
  | some r => exact .inl ⟨r, (scan_eq_some_iff pattern buf r).mp hscan⟩
  | none => exact .inr ((scan_eq_none_iff pattern buf).mp hscan)

/-- The pattern's four bytes end within the content. -/
theorem FirstPatternAt.add_four_le {pattern : Word} {buf : List Byte} {r : Nat} (h : FirstPatternAt pattern buf r) :
    r + 4 ≤ buf.length := h.1.1

theorem FirstPatternAt.le_length {pattern : Word} {buf : List Byte} {r : Nat} (h : FirstPatternAt pattern buf r) :
    r ≤ buf.length := (Nat.le_add_right r 4).trans h.add_four_le

/-! ## FIND (R133) -/

theorem exec_find_of_first {s : State} {r : Nat} (h : FirstPatternAt s.pattern s.buf r) :
    exec .find s = s.finishCommand .found r := by
  change execFind s = _
  rw [execFind, (scan_eq_some_iff _ _ r).mpr h]

theorem exec_find_of_nowhere {s : State} (h : ∀ j, ¬ PatternAt s.pattern s.buf j) :
    exec .find s = s.finishCommand .notFound 0 := by
  change execFind s = _
  rw [execFind, (scan_eq_none_iff _ _).mpr h]

/-- FIND ends with FOUND exactly when the pattern stands somewhere in the content. -/
theorem exec_find_rcode_eq_found_iff {s t : State} (h : exec .find s = .next t) :
    t.rcode = 2 ↔ ∃ i, PatternAt s.pattern s.buf i := by
  obtain ⟨r, hfirst⟩ | hnowhere := exists_firstPatternAt_or_nowhere s.pattern s.buf
  · rw [exec_find_of_first hfirst] at h
    obtain rfl := (s.finishCommand_next_iff t _ _).mp h
    exact iff_of_true rfl ⟨r, hfirst.1⟩
  · rw [exec_find_of_nowhere hnowhere] at h
    obtain rfl := (s.finishCommand_next_iff t _ _).mp h
    exact iff_of_false (show ResultCode.notFound.bits ≠ 2 by decide) (not_exists.mpr hnowhere)

/-- Settles O33: word 5 decodes to FIND and is OP 5's only legal word; a first occurrence lies within the content, so
RESULT.VALUE is its exact index. -/
theorem findReportsLeastMatch : Obligations.FindReportsLeastMatch := by
  unfold Obligations.FindReportsLeastMatch
  refine ⟨runsOnCommandWord_of_decodeCommand (c := .find) (by decide), onlyWordOfOp_of_noArg (by decide),
    fun s hinv => ?_⟩
  obtain ⟨r, hfirst⟩ | hnowhere := exists_firstPatternAt_or_nowhere s.pattern s.buf
  · have hfits : r ≤ 65535 := hfirst.le_length.trans hinv.length_le
    have hvalue := s.setResult_value_exact .found r hfits
    rw [exec_find_of_first hfirst, State.finishCommand_eq]
    exact ⟨_, rfl, rfl, .inl ⟨rfl, hvalue.symm ▸ hfirst⟩⟩
  · rw [exec_find_of_nowhere hnowhere, State.finishCommand_eq]
    exact ⟨_, rfl, rfl, .inr ⟨rfl, rfl, hnowhere⟩⟩

/-! ## SYNC_STEP (R135) -/

theorem exec_syncStep_of_short {s : State} (h : s.buf.length < 4) : exec .syncStep s = s.finishCommand .wait 0 :=
  if_pos h

theorem exec_syncStep_of_first {s : State} {r : Nat} (h : FirstPatternAt s.pattern s.buf r) :
    exec .syncStep s = (s.removeHead r).finishCommand .found r := by
  have hlong : ¬ s.buf.length < 4 := Nat.not_lt.mpr ((Nat.le_add_left 4 r).trans h.add_four_le)
  change execSyncStep s = _
  rw [execSyncStep, if_neg hlong, (scan_eq_some_iff _ _ r).mpr h]

theorem exec_syncStep_of_nowhere {s : State} (hlong : 4 ≤ s.buf.length) (h : ∀ j, ¬ PatternAt s.pattern s.buf j) :
    exec .syncStep s = { s with buf := [] }.finishCommand .notFound s.buf.length := by
  change execSyncStep s = _
  rw [execSyncStep, if_neg (Nat.not_lt.mpr hlong), (scan_eq_none_iff _ _).mpr h]

/-- Settles O34: word 6 decodes to SYNC_STEP and is OP 6's only legal word; no more bytes are discarded than are held,
so RESULT.VALUE is their exact number. -/
theorem syncStepDiscardsUpToMatch : Obligations.SyncStepDiscardsUpToMatch := by
  unfold Obligations.SyncStepDiscardsUpToMatch
  refine ⟨runsOnCommandWord_of_decodeCommand (c := .syncStep) (by decide), onlyWordOfOp_of_noArg (by decide),
    fun s hinv => ⟨fun hshort => ?_, fun hlong => ?_⟩⟩
  · rw [exec_syncStep_of_short hshort, State.finishCommand_eq]
    rfl
  · obtain ⟨r, hfirst⟩ | hnowhere := exists_firstPatternAt_or_nowhere s.pattern s.buf
    · have hfits : r ≤ 65535 := hfirst.le_length.trans hinv.length_le
      rw [exec_syncStep_of_first hfirst, State.finishCommand_eq]
      exact ⟨_, rfl, rfl, .inl ⟨r, hfirst, rfl, rfl, s.setResult_value_exact .found r hfits⟩⟩
    · rw [exec_syncStep_of_nowhere hlong hnowhere, State.finishCommand_eq]
      exact ⟨_, rfl, rfl, .inr ⟨hnowhere, rfl, rfl, s.setResult_value_exact .notFound _ hinv.length_le⟩⟩

/-! ## PATTERN (R131, R132) -/

/-- Settles O31: descriptor 0x10 decodes to the PATTERN read, which ends as a read of the pattern; reset leaves
0x00400004 in it. -/
theorem patternReadReturnsPattern : Obligations.PatternReadReturnsPattern := by
  unfold Obligations.PatternReadReturnsPattern
  have hread (s : State) : exec .rdPattern s = .next { s with response := .readData s.pattern } := by
    rw [exec_rdPattern, State.finishRead_eq]
  exact ⟨runsOnAccess_of_decodeDesc fun _ => rfl, hread, hread State.reset⟩

@[simp] theorem exec_wrPattern (v : Word) (s : State) : exec (.wrPattern v) s = { s with pattern := v }.finishWrite :=
  rfl

/-- Settles O32: descriptor 0x30 decodes to the PATTERN write, which loads the pattern and leaves the content, so the
FIND after it scans the same bytes for the new value. -/
theorem patternWriteLoadsPattern : Obligations.PatternWriteLoadsPattern := by
  unfold Obligations.PatternWriteLoadsPattern
  refine ⟨runsOnAccess_of_decodeDesc fun _ => rfl, fun v s => ⟨?_, fun t u hwrite hfind => ?_⟩⟩
  · rw [exec_wrPattern, State.finishWrite_eq]
  · obtain rfl := (State.finishWrite_next_iff _ t).mp hwrite
    exact exec_find_rcode_eq_found_iff hfind

end Sys2Proof.Machine
end

section
/-! BusError (R146, R151): which accesses the decoder of R71 refuses, for which cause, and that every other access
completes. -/

namespace Sys2Proof

/-! ## The width (R44) -/

theorem Access.fullWord_eq_false_iff (a : Access) : a.fullWord = false ↔ a.size ≠ .word ∨ a.enables ≠ 0xF := by
  rw [Access.fullWord, Bool.and_eq_false_iff, beq_eq_false_iff_ne, beq_eq_false_iff_ne]
  rfl

/-! ## Alignment (R45) -/

/-- The descriptor's bits [1:0] are the offset's: bit W stands above them. -/
theorem Access.desc_lowBits_eq_zero_iff (a : Access) : a.desc.extractLsb' 0 2 = 0 ↔ a.off.toNat % 4 = 0 := by
  rw [← BitVec.toNat_inj, BitVec.extractLsb'_toNat, Nat.shiftRight_zero, Access.toNat_desc]
  change _ % 4 = 0 ↔ _
  omega

theorem decodeDesc_of_misaligned {a : Access} (h : a.off.toNat % 4 ≠ 0) (data : Word) :
    decodeDesc a.desc data = .error .misaligned :=
  if_pos (mt a.desc_lowBits_eq_zero_iff.mp h)

/-- Past the alignment check the direction is the decoder's only objection. -/
theorem direction_of_decodeDesc_error {a : Access} {data : Word} {c : BusCause} (halign : a.off.toNat % 4 = 0)
    (h : decodeDesc a.desc data = .error c) : c = .direction := by
  unfold decodeDesc at h
  rw [if_neg (not_not.mpr (a.desc_lowBits_eq_zero_iff.mpr halign))] at h
  split at h <;> cases h
  rfl

/-! ## Direction (R72) -/

/-- A read of a write-only register, CMD or CRC_DATA, or a write of a read-only one, RESULT, DATA or CAPACITY (R72). -/
def Access.WrongWay (a : Access) : Prop :=
  (a.write = false ∧ a.off.toNat ∈ [0x00, 0x18]) ∨ (a.write = true ∧ a.off.toNat ∈ [0x08, 0x0C, 0x1C])

/-- Of the sixteen aligned descriptors R71's table has eleven, and R72 names the other five. -/
theorem Access.desc_mem_legalAccesses_iff {a : Access} (h : a.off.toNat % 4 = 0) (data : Word) :
    a.desc.toNat ∈ (legalAccesses data).map Prod.fst ↔ ¬ a.WrongWay := by
  have hoff : a.off.toNat < 32 := a.off.isLt
  rw [Access.toNat_desc, Access.WrongWay]
  cases a.write with
  | false => simp [legalAccesses]; omega
  | true => simp [legalAccesses]; omega

theorem exists_decodeDesc_eq_ok_iff (desc : BitVec 6) (data : Word) :
    (∃ i, decodeDesc desc data = .ok i) ↔ desc.toNat ∈ (legalAccesses data).map Prod.fst := by
  simp [decodeDesc_eq_ok_iff]

theorem decodeDesc_of_wrongWay {a : Access} (halign : a.off.toNat % 4 = 0) (h : a.WrongWay) (data : Word) :
    decodeDesc a.desc data = .error .direction := by
  cases hdec : decodeDesc a.desc data with
  | error c => rw [direction_of_decodeDesc_error halign hdec]
  | ok i =>
    have hlegal := (exists_decodeDesc_eq_ok_iff _ _).mp ⟨i, hdec⟩
    exact absurd h ((Access.desc_mem_legalAccesses_iff halign data).mp hlegal)

theorem exists_decodeDesc_of_not_wrongWay {a : Access} (halign : a.off.toNat % 4 = 0) (h : ¬ a.WrongWay)
    (data : Word) : ∃ i, decodeDesc a.desc data = .ok i :=
  (exists_decodeDesc_eq_ok_iff _ _).mpr ((Access.desc_mem_legalAccesses_iff halign data).mpr h)

end Sys2Proof

namespace Sys2Proof.Machine

/-! ## Every instruction completes (R161) -/

theorem exec_completes (i : Instr) (s : State) : ∃ t, exec i s = .next t := by
  cases i with
  | push b => exact ⟨_, rfl⟩
  | nop => exact runCommand_completes .nop s
  | clear => exact runCommand_completes .clear s
  | consume n => exact runCommand_completes (.consume n) s
  | peek x => exact runCommand_completes (.peek x) s
  | peekWord x => exact runCommand_completes (.peekWord x) s
  | find => exact runCommand_completes .find s
  | syncStep => exact runCommand_completes .syncStep s
  | crcFifo a => exact runCommand_completes (.crcFifo a) s
  | crcInit => exact runCommand_completes .crcInit s
  | wrCmd w =>
    cases hdec : decodeCommand w with
    | ok c => rw [exec_wrCmd_of_ok hdec, exec_toInstr]; exact runCommand_completes c s
    | error e => exact ⟨_, exec_wrCmd_of_error hdec s⟩
  | wrStatus | wrPattern | wrCrcAcc | wrCrcData => exact ⟨_, rfl⟩
  | rdStatus | rdResult | rdData | rdPattern | rdCrcAcc | rdCapacity => exact ⟨_, rfl⟩

/-- Settles O13: the three causes are the decoder's three checks in its order, and an access that passes them decodes
to an instruction, which completes whatever its operand. -/
theorem busErrorHasThreeCauses : Obligations.BusErrorHasThreeCauses := by
  unfold Obligations.BusErrorHasThreeCauses
  intro s a rest hpending hreset
  split_ifs with hnarrow hmisaligned hwrong
  · exact step_of_bad_access s a rest _ hpending hreset
      (decodeAccess_of_narrow a (a.fullWord_eq_false_iff.mpr hnarrow))
  all_goals have hdecode : decodeAccess a = decodeDesc a.desc a.data :=
    decodeAccess_of_full a (Bool.eq_true_of_not_eq_false (mt a.fullWord_eq_false_iff.mp hnarrow))
  · exact step_of_bad_access s a rest _ hpending hreset (hdecode.trans (decodeDesc_of_misaligned hmisaligned _))
  · exact step_of_bad_access s a rest _ hpending hreset
      (hdecode.trans (decodeDesc_of_wrongWay (not_not.mp hmisaligned) hwrong _))
  · obtain ⟨i, hi⟩ := exists_decodeDesc_of_not_wrongWay (not_not.mp hmisaligned) hwrong a.data
    rw [step_of_access s a rest i hpending hreset (hdecode.trans hi)]
    exact exec_completes i _

end Sys2Proof.Machine
end

section
/-! Reset (R165): the values it leaves, and that it takes one step. -/

namespace Sys2Proof.Machine

/-- The state the model starts in holds the values of R35, whatever CAP is. -/
theorem State.resetWith_atResetValues (cap : Nat) : (State.resetWith cap).AtResetValues := by
  simp [State.AtResetValues]

/-- Settles O1: the step on an asserted reset is `takeReset` of the state without that event, whose fields the
`takeReset` lemmas give. -/
theorem resetSetsEveryValue : Obligations.ResetSetsEveryValue := by
  unfold Obligations.ResetSetsEveryValue
  refine ⟨fun s rest hpending => ⟨_, step_of_assert s rest hpending, ?_⟩, State.resetWith_atResetValues _⟩
  simp

end Sys2Proof.Machine
end

section
/-! The round trip of the decoder and the encoder (R60 to R62, R68, R71): an encoded instruction decodes back, a legal
command word is the encoding of its command, and the opcode table's rows tell the legal words apart. -/

namespace Sys2Proof

/-! ## Decoding an encoding -/

/-- The word of each command decodes back to the command. -/
theorem decode_encode_toInstr (c : Command) : decode (encode c.toInstr) = .ok c.toInstr := by
  cases c with
  | consume n => simp only [Command.toInstr, encode, decode, decodeCommand_consume]
  | peek i => simp only [Command.toInstr, encode, decode, decodeCommand_peek]
  | peekWord i => simp only [Command.toInstr, encode, decode, decodeCommand_peekWord]
  | crcFifo a => simp only [Command.toInstr, encode, decode, decodeCommand_crcFifo]
  | nop | clear | find | syncStep | crcInit => decide

theorem decode_encode (i : Instr) : decode (encode i) = .ok i := by
  cases i with
  | nop => exact decode_encode_toInstr .nop
  | clear => exact decode_encode_toInstr .clear
  | consume n => exact decode_encode_toInstr (.consume n)
  | peek x => exact decode_encode_toInstr (.peek x)
  | peekWord x => exact decode_encode_toInstr (.peekWord x)
  | find => exact decode_encode_toInstr .find
  | syncStep => exact decode_encode_toInstr .syncStep
  | crcFifo a => exact decode_encode_toInstr (.crcFifo a)
  | crcInit => exact decode_encode_toInstr .crcInit
  | rdStatus | rdResult | rdData | rdPattern | rdCrcAcc | rdCapacity => rfl
  | wrStatus | wrPattern | wrCrcAcc | wrCrcData | wrCmd | push => rfl

/-- Settles O7: no operand value is illegal, so every instruction decodes back from its encoding. -/
theorem decodeInvertsEncode : Obligations.DecodeInvertsEncode := by
  unfold Obligations.DecodeInvertsEncode
  exact fun i _ => decode_encode i

/-- Settles O10: each word is evaluated. -/
theorem workedWordsDecode : Obligations.WorkedWordsDecode := by
  unfold Obligations.WorkedWordsDecode
  decide

/-! ## Encoding a decoded command word -/

/-- A word with RSV = 0 is made of its OP and its ARG. -/
theorem cmdWord_cmdOp_cmdArg {w : Word} (h : cmdRsv w = 0) : cmdWord (cmdOp w) (cmdArg w) = w := by
  rw [cmdRsv_eq_zero_iff] at h
  apply BitVec.eq_of_toNat_eq
  rw [toNat_cmdWord, toNat_cmdOp, toNat_cmdArg]
  omega

theorem encode_of_checkRsv {w : Word} {c c' : Command}
    (hc : encode c.toInstr = .cmd (cmdWord (cmdOp w) (cmdArg w))) (h : checkRsv w c = .ok c') :
    encode c'.toInstr = .cmd w := by
  unfold checkRsv at h
  split at h
  next hrsv => rw [← Except.ok.inj h, hc, cmdWord_cmdOp_cmdArg hrsv]
  next => cases h

theorem encode_of_checkNoArg {w : Word} {c c' : Command} (hc : encode c.toInstr = .cmd (cmdWord (cmdOp w) 0))
    (h : checkNoArg w c = .ok c') : encode c'.toInstr = .cmd w := by
  unfold checkNoArg at h
  split at h
  next => cases h
  next hrsv =>
    split at h
    next => cases h
    next harg =>
      have hzero : cmdArg w = 0 := not_not.mp harg
      rw [← Except.ok.inj h, hc, ← hzero, cmdWord_cmdOp_cmdArg (not_not.mp hrsv)]

/-- A legal command word is the encoding of the command it decodes to: no other word decodes to that command. -/
theorem encode_of_decodeCommand {w : Word} {c : Command} (h : decodeCommand w = .ok c) : encode c.toInstr = .cmd w := by
  unfold decodeCommand at h
  split at h
  next hop => exact encode_of_checkNoArg (hop ▸ rfl) h
  next hop => exact encode_of_checkNoArg (hop ▸ rfl) h
  next hop => exact encode_of_checkRsv (hop ▸ rfl) h
  next hop => exact encode_of_checkRsv (hop ▸ rfl) h
  next hop => exact encode_of_checkRsv (hop ▸ rfl) h
  next hop => exact encode_of_checkNoArg (hop ▸ rfl) h
  next hop => exact encode_of_checkNoArg (hop ▸ rfl) h
  next hop => exact encode_of_checkRsv (hop ▸ rfl) h
  next hop => exact encode_of_checkNoArg (hop ▸ rfl) h
  next => cases h

/-! ## The nine command rows (R68) -/

theorem tableRow_mem_commandRows (c : Command) : c.toInstr.tableRow ∈ commandRows := by
  cases c <;> simp [commandRows, Command.toInstr, Instr.tableRow]

theorem tableRow_mask (c : Command) :
    c.toInstr.tableRow.mask = if c.takesArg then 0x0000FFFF else 0xFFFFFFFF := by
  cases c <;> rfl

/-- A legal word is accepted by its command's row. -/
theorem and_mask_of_decodeCommand {w : Word} {c : Command} (h : decodeCommand w = .ok c) :
    w &&& c.toInstr.tableRow.mask = c.toInstr.tableRow.value := by
  have haccepts : ∀ c : Command, c.toInstr.tableRow.accepts (encode c.toInstr) = true
    | .nop => Laws.RowAccepts.nop
    | .clear => Laws.RowAccepts.clear
    | .consume n => Laws.RowAccepts.consume n
    | .peek i => Laws.RowAccepts.peek i
    | .peekWord i => Laws.RowAccepts.peekWord i
    | .find => Laws.RowAccepts.find
    | .syncStep => Laws.RowAccepts.syncStep
    | .crcFifo a => Laws.RowAccepts.crcFifo a
    | .crcInit => Laws.RowAccepts.crcInit
  have hrow := haccepts c
  rw [encode_of_decodeCommand h, TableRow.accepts, Bool.and_eq_true, beq_iff_eq, beq_iff_eq] at hrow
  exact hrow.2

/-- The rows' values fit the low half, which every mask shows, so a row that accepts a word has the word's low half as
its value. -/
theorem value_of_and_mask {w : Word} {r : TableRow} (hr : r ∈ commandRows) (h : w &&& r.mask = r.value) :
    r.value = w &&& 0x0000FFFF := by
  have hlow : ∀ r ∈ commandRows, r.mask &&& 0x0000FFFF = 0x0000FFFF ∧ r.value &&& 0x0000FFFF = r.value := by decide
  obtain ⟨hmask, hvalue⟩ := hlow r hr
  rw [← hvalue, ← h, BitVec.and_assoc, hmask]

/-- No two rows have the same value. -/
theorem filter_commandRows_value : ∀ r ∈ commandRows, commandRows.filter (fun q => q.value = r.value) = [r] := by
  decide

/-- The row that accepts a word is the only one that does. -/
theorem filter_commandRows_of_and_mask {w : Word} {r : TableRow} (hr : r ∈ commandRows) (h : w &&& r.mask = r.value) :
    commandRows.filter (fun q => w &&& q.mask = q.value) = [r] := by
  have hsame := filter_commandRows_value r hr
  refine Eq.trans (List.filter_congr fun q hq => decide_eq_decide.mpr ⟨fun hacc => ?_, fun hval => ?_⟩) hsame
  · rw [value_of_and_mask hq hacc, value_of_and_mask hr h]
  · have hmem : q ∈ commandRows.filter (fun q => q.value = r.value) := List.mem_filter.mpr ⟨hq, decide_eq_true hval⟩
    rw [hsame, List.mem_singleton] at hmem
    rwa [hmem]

/-- A word that a row accepts is legal: the row fixes OP and RSV, and ARG where OP takes none. -/
theorem decodeCommand_isOk_of_and_mask {w : Word} {r : TableRow} (hr : r ∈ commandRows) (h : w &&& r.mask = r.value) :
    (decodeCommand w).isOk = true := by
  have hrows : ∀ r ∈ commandRows, r.value.toNat ≤ 8 ∧ (r.mask = 0xFFFFFFFF ∨ r.value.toNat ∉ [0, 1, 5, 6, 8]) := by
    decide
  obtain ⟨hop, hmask⟩ := hrows r hr
  have hlow : r.value.toNat = w.toNat % 65536 := by
    rw [value_of_and_mask hr h, BitVec.toNat_and]
    exact Nat.and_two_pow_sub_one_eq_mod w.toNat 16
  have hlegal : ¬ (w.toNat % 16 ∈ [0, 1, 5, 6, 8] ∧ w.toNat / 65536 ≠ 0) := by
    obtain hfull | harg := hmask
    · have hw : w = r.value := by rw [← h, hfull]; exact (BitVec.and_allOnes).symm
      rw [hw]
      omega
    · rw [show w.toNat % 16 = r.value.toNat by omega]
      exact fun h => harg h.1
  rw [decodeCommand_isOk_iff]
  rintro (hreserved | hrsv | hstray)
  · omega
  · omega
  · exact hlegal hstray

/-- Settles O8: a legal word is accepted by its command's row and by no other, and a word that a row accepts is
legal. -/
theorem commandWordMatchesOneRowOrIsErrCmd : Obligations.CommandWordMatchesOneRowOrIsErrCmd := by
  unfold Obligations.CommandWordMatchesOneRowOrIsErrCmd
  intro w
  cases hdec : decodeCommand w with
  | ok c =>
    have haccepts := and_mask_of_decodeCommand hdec
    exact .inl ⟨c, _, rfl, rfl, haccepts, tableRow_mask c,
      filter_commandRows_of_and_mask (tableRow_mem_commandRows c) haccepts⟩
  | error e =>
    refine .inr ⟨fun r hr haccepts => ?_, Machine.exec_wrCmd_of_error hdec⟩
    have hok := decodeCommand_isOk_of_and_mask hr haccepts
    rw [hdec] at hok
    cases hok

end Sys2Proof
end

section
/-! The step seen from the ports (R22, R52, R166): during reset nothing is taken; outside it the first operation's
instruction runs, whichever form the operation has. -/

namespace Sys2Proof

/-- A descriptor that decodes reaches RXB as an access that decodes to the same instruction. -/
theorem decodeAccess_of_decode_bus {desc : BitVec 6} {data : Word} {i : Instr} (h : decode (.bus desc data) = .ok i) :
    decodeAccess ⟨desc.getLsbD 5, desc.extractLsb' 0 5, .word, 0xF, data⟩ = .ok i := by
  rw [decodeAccess_of_desc]
  cases hdesc : decodeDesc desc data with
  | ok j => simpa [decode, hdesc] using h
  | error c => simp [decode, hdesc] at h

end Sys2Proof

namespace Sys2Proof.Machine

/-! ## During reset (R166) -/

theorem step_of_push_inReset {s : State} {b : Byte} {rest : List Event} (hreset : s.inReset = true)
    (hpending : s.pending = .push b :: rest) : step s = .next { s with pending := rest } := by
  simp [step, fetch, fetchEvent, hpending, hreset]

theorem step_of_access_inReset {s : State} {a : Access} {rest : List Event} (hreset : s.inReset = true)
    (hpending : s.pending = .access a :: rest) : step s = .refused .accessDuringReset := by
  simp [step, fetch, fetchEvent, hpending, hreset]

/-- Settles O2: the reset input's level stands before both kinds of operation. -/
theorem nothingIsTakenDuringReset : Obligations.NothingIsTakenDuringReset := by
  unfold Obligations.NothingIsTakenDuringReset
  exact fun s rest hreset => ⟨fun b => step_of_push_inReset hreset, fun a => step_of_access_inReset hreset⟩

/-! ## Outside reset -/

/-- A command word, legal or not, runs as the CMD write of it (R60, R67). -/
theorem step_of_command {s : State} {w : Word} {rest : List Event} (hreset : s.inReset = false)
    (hpending : s.pending = eventOf (.cmd w) :: rest) : step s = exec (.wrCmd w) { s with pending := rest } :=
  step_of_access s _ rest _ hpending hreset (decodeAccess_of_command w)

/-- An encoded operation runs the instruction that it decodes to, whichever port it arrives at. -/
theorem step_of_eventOf {s : State} {e : Encoded} {i : Instr} {rest : List Event} (hreset : s.inReset = false)
    (hpending : s.pending = eventOf e :: rest) (hdecode : decode e = .ok i) :
    step s = exec i { s with pending := rest } := by
  cases e with
  | cmd w =>
    rw [step_of_command hreset hpending]
    cases hdec : decodeCommand w with
    | ok c =>
      simp only [decode, hdec, Except.ok.injEq] at hdecode
      rw [exec_wrCmd_of_ok hdec, hdecode]
    | error e => simp [decode, hdec] at hdecode
  | bus desc data => exact step_of_access s _ rest i hpending hreset (decodeAccess_of_decode_bus hdecode)
  | port b =>
    obtain rfl := Except.ok.inj hdecode
    exact step_of_push s b rest hpending hreset

/-- In a run, an operation that decodes is its instruction's execution. -/
theorem runSteps_succ_of_eventOf {n : Nat} {s t : State} {e : Encoded} {i : Instr} {rest : List Event}
    (hreset : s.inReset = false) (hpending : s.pending = eventOf e :: rest) (hdecode : decode e = .ok i)
    (hexec : exec i { s with pending := rest } = .next t) : runSteps (n + 1) s = runSteps n t :=
  runSteps_succ_of_next n s t ((step_of_eventOf hreset hpending hdecode).trans hexec)

/-- Settles O12: a pushed byte, a decoded access and a decoded operation, one step lemma each. -/
theorem stepRunsDecodedInstruction : Obligations.StepRunsDecodedInstruction := by
  unfold Obligations.StepRunsDecodedInstruction
  exact fun s rest hreset => ⟨fun b hpending => step_of_push s b rest hpending hreset,
    fun a i hpending => step_of_access s a rest i hpending hreset, fun e i => step_of_eventOf hreset⟩

/-- An access outside reset completes or ends in BusError (R161). -/
theorem step_of_access_cases {s : State} {a : Access} {rest : List Event} (hreset : s.inReset = false)
    (hpending : s.pending = .access a :: rest) : (∃ t, step s = .next t) ∨ ∃ c, step s = .fault (.busError c) := by
  cases hdecode : decodeAccess a with
  | ok i => exact .inl (by rw [step_of_access s a rest i hpending hreset hdecode]; exact exec_completes i _)
  | error c => exact .inr ⟨c, step_of_bad_access s a rest c hpending hreset hdecode⟩

/-- Settles O6: every instruction completes, so only an access can stop a step, by not decoding. -/
theorem neverStuck : Obligations.NeverStuck := by
  unfold Obligations.NeverStuck
  refine ⟨exec_completes, fun s hreset => ?_⟩
  cases hpending : s.pending with
  | nil => exact .inl ⟨s, step_of_idle s hpending⟩
  | cons e rest =>
    cases e with
    | push b => exact .inl ⟨_, step_of_push s b rest hpending hreset⟩
    | access a => exact step_of_access_cases hreset hpending
    | assertReset => exact .inl ⟨_, step_of_assert s rest hpending⟩
    | releaseReset => exact .inl ⟨_, step_of_release s rest hpending⟩

/-! ## What no instruction touches -/

theorem exec_keeps_inReset {i : Instr} {s t : State} (h : exec i s = .next t) : t.inReset = s.inReset := by
  obtain ⟨b, -, rfl⟩ | ⟨c, -, hrun⟩ | ⟨w, -, rfl⟩ | haccess := exec_next_cases h
  · exact s.receive_inReset b
  · rw [runCommand_frame hrun]
  · rfl
  · rw [haccess]

theorem exec_keeps_pending {i : Instr} {s t : State} (h : exec i s = .next t) : t.pending = s.pending := by
  obtain ⟨b, -, rfl⟩ | ⟨c, -, hrun⟩ | ⟨w, -, rfl⟩ | haccess := exec_next_cases h
  · exact s.receive_pending b
  · rw [runCommand_frame hrun]
  · rfl
  · rw [haccess]

/-! ## RESULT right after a command (R171) -/

/-- Settles O16: the CMD write completes outside reset with the RESULT read still to come, and the read then answers
what the command left. -/
theorem resultReadAfterCommandShowsIt : Obligations.ResultReadAfterCommandShowsIt := by
  unfold Obligations.ResultReadAfterCommandShowsIt
  intro w s rest hreset hpending
  obtain ⟨t, ht⟩ := exec_completes (.wrCmd w) { s with pending := eventOf (.bus 0x08 0) :: rest }
  have hread : step t = .next { t with response := .readData t.resultWord, pending := rest } := by
    rw [step_of_eventOf ((exec_keeps_inReset ht).trans hreset) (exec_keeps_pending ht) (i := .rdResult) rfl]
    exact State.finishRead_eq _ _
  refine ⟨t, ht, ?_⟩
  rw [runSteps_succ_of_next 1 s t ((step_of_command hreset hpending).trans ht), runSteps_succ_of_next 0 t _ hread,
    runSteps_zero]

/-! ## The register window (R41) -/

theorem busOffset_of_lt {base off : Nat} (h : off < 32) : busOffset base (base + off) = some (BitVec.ofNat 5 off) := by
  rw [busOffset, if_pos (by omega), Nat.add_sub_cancel_left]

theorem busOffset_of_outside {base addr : Nat} (h : addr < base ∨ base + 32 ≤ addr) : busOffset base addr = none := by
  rw [busOffset, if_neg (by omega)]

/-- A word read of the address of an offset reaches RXB as a full-word access at that offset (R15). -/
theorem memRead_offset (base : Nat) (off : BitVec 5) :
    memRead base (base + off.toNat) = some (.access ⟨false, off, .word, 0xF, 0⟩) := by
  rw [memRead, busOffset_of_lt off.isLt, BitVec.ofNat_toNat, BitVec.setWidth_eq]
  rfl

/-- The access to a readable register decodes to an instruction that reads it: the register map of R36 and the
descriptors of R71 agree. -/
theorem exec_of_registerAt {s : State} {off : BitVec 5} {v : Word} (h : s.registerAt off = some v) :
    ∃ i, decodeAccess ⟨false, off, .word, 0xF, 0⟩ = .ok i ∧
      ∀ rest, exec i { s with pending := rest } = { s with pending := rest }.finishRead v := by
  unfold State.registerAt at h
  split at h <;> cases h
  · exact ⟨.rdStatus, rfl, fun _ => rfl⟩
  · exact ⟨.rdResult, rfl, fun _ => rfl⟩
  · exact ⟨.rdData, rfl, fun _ => rfl⟩
  · exact ⟨.rdPattern, rfl, fun _ => rfl⟩
  · exact ⟨.rdCrcAcc, rfl, fun _ => rfl⟩
  · exact ⟨.rdCapacity, rfl, fun _ => rfl⟩

/-- Settles O14: the window's 32 addresses are the offsets, and the access that a word read makes reads the register of
its offset. -/
theorem windowReadsReturnRegisters : Obligations.WindowReadsReturnRegisters := by
  unfold Obligations.WindowReadsReturnRegisters
  refine ⟨fun base off => busOffset_of_lt, fun base addr => busOffset_of_outside,
    fun base off v e s rest hread hpending hreset hreg => ?_⟩
  obtain ⟨i, hdecode, hexec⟩ := exec_of_registerAt hreg
  rw [memRead_offset, Option.some.injEq] at hread
  rw [← hread] at hpending
  rw [step_of_access s _ rest i hpending hreset hdecode, hexec, State.finishRead_eq]

end Sys2Proof.Machine
end

section
/-! How a command can end, said once for all nine, and the invariant: an instruction outside reset and then every step
keeps CAP legal, the content within it, and RESULT as R66 and R124 ask. -/

namespace Sys2Proof.Machine

/-! ## The end of a command -/

/-- The command ends from the state `u` with this code and value: the value counts bytes that were held and is 0 beside
WAIT, ERR_RANGE and ERR_CMD (R66, R124); `u` has new DATA only in a peek that ends with OK (R29), and a new CRC_ACC
only in CRC_INIT and CRC_FIFO (R31). -/
structure EndsAs (c : Command) (s u : State) (code : ResultCode) (value : Nat) : Prop where
  runs : runCommand c s = u.finishCommand code value
  valueLe : value ≤ s.buf.length
  valueZero : code = .wait ∨ code = .errRange ∨ code = .errCmd → value = 0
  dataWriters : u.data = s.data ∨ ((∃ x, c = .peek x ∨ c = .peekWord x) ∧ code = .ok)
  crcAccWriters : u.crcAcc = s.crcAcc ∨ c = .crcInit ∨ ∃ a, c = .crcFifo a

/-- An end with value 0 has its value as it must be. -/
theorem EndsAs.of_zero {c : Command} {s u : State} {code : ResultCode} (hruns : runCommand c s = u.finishCommand code 0)
    (hdata : u.data = s.data ∨ ((∃ x, c = .peek x ∨ c = .peekWord x) ∧ code = .ok))
    (hcrc : u.crcAcc = s.crcAcc ∨ c = .crcInit ∨ ∃ a, c = .crcFifo a) : EndsAs c s u code 0 :=
  ⟨hruns, Nat.zero_le _, fun _ => rfl, hdata, hcrc⟩

theorem EndsAs.of_errRange {c : Command} {s : State} (h : runCommand c s = .next s.withErrRange) :
    EndsAs c s s .errRange 0 := .of_zero (h.trans s.finishCommand_errRange.symm) (.inl rfl) (.inl rfl)

theorem exists_endsAs (c : Command) (s : State) : ∃ u code value, EndsAs c s u code value := by
  cases c with
  | nop => exact ⟨_, _, _, .of_zero rfl (.inl rfl) (.inl rfl)⟩
  | clear => exact ⟨_, _, _, rfl, le_rfl, by simp, .inl rfl, .inl rfl⟩
  | consume n => exact ⟨_, _, _, rfl, removable_le _ _, by simp, .inl rfl, .inl rfl⟩
  | peek i =>
    obtain hheld | hpast := Nat.lt_or_ge i.toNat s.buf.length
    · exact ⟨_, _, _, .of_zero (exec_peek_of_lt hheld) (.inr ⟨⟨i, .inl rfl⟩, rfl⟩) (.inl rfl)⟩
    · exact ⟨_, _, _, .of_errRange (exec_peek_of_le hpast)⟩
  | peekWord i =>
    obtain hpast | hheld := Nat.lt_or_ge s.buf.length (i.toNat + 4)
    · exact ⟨_, _, _, .of_errRange (exec_peekWord_of_lt hpast)⟩
    · exact ⟨_, _, _, .of_zero (exec_peekWord_of_le hheld) (.inr ⟨⟨i, .inr rfl⟩, rfl⟩) (.inl rfl)⟩
  | find =>
    obtain ⟨r, hfirst⟩ | hnowhere := exists_firstPatternAt_or_nowhere s.pattern s.buf
    · exact ⟨_, _, _, exec_find_of_first hfirst, hfirst.le_length, by simp, .inl rfl, .inl rfl⟩
    · exact ⟨_, _, _, .of_zero (exec_find_of_nowhere hnowhere) (.inl rfl) (.inl rfl)⟩
  | syncStep =>
    obtain hshort | hlong := Nat.lt_or_ge s.buf.length 4
    · exact ⟨_, _, _, .of_zero (exec_syncStep_of_short hshort) (.inl rfl) (.inl rfl)⟩
    · obtain ⟨r, hfirst⟩ | hnowhere := exists_firstPatternAt_or_nowhere s.pattern s.buf
      · exact ⟨_, _, _, exec_syncStep_of_first hfirst, hfirst.le_length, by simp, .inl rfl, .inl rfl⟩
      · exact ⟨_, _, _, exec_syncStep_of_nowhere hlong hnowhere, le_rfl, by simp, .inl rfl, .inl rfl⟩
  | crcFifo a =>
    obtain hpast | hheld := Nat.lt_or_ge s.buf.length (coveredLength a)
    · exact ⟨_, _, _, .of_errRange (exec_crcFifo_of_lt hpast)⟩
    · exact ⟨_, _, _, exec_crcFifo_of_le hheld, hheld, by simp, .inl rfl, .inr (.inr ⟨a, rfl⟩)⟩
  | crcInit => exact ⟨_, _, _, .of_zero rfl (.inl rfl) (.inr (.inl rfl))⟩

/-- The state a command answers, from its end. -/
theorem EndsAs.next_eq {c : Command} {s u t : State} {code : ResultCode} {value : Nat} (hend : EndsAs c s u code value)
    (h : runCommand c s = .next t) :
    t = { u with rcode := code.bits, rvalue := BitVec.ofNat 16 value, response := .writeOk } :=
  (u.finishCommand_next_iff t code value).mp (hend.runs.symm.trans h)

/-! ## The length (R108) -/

/-- Only a PUSH with room lengthens the content, by one byte. -/
theorem exec_length_cases {i : Instr} {s t : State} (h : exec i s = .next t) :
    t.buf.length ≤ s.buf.length ∨
      ∃ b, i = .push b ∧ s.buf.length < s.cap ∧ t.buf.length = s.buf.length + 1 := by
  obtain ⟨b, rfl, rfl⟩ | ⟨c, -, hrun⟩ | ⟨w, -, rfl⟩ | haccess := exec_next_cases h
  · obtain hroom | hfull := Nat.lt_or_ge s.buf.length s.cap
    · rw [s.receive_of_room b hroom]
      exact .inr ⟨b, rfl, hroom, List.length_append⟩
    · rw [s.receive_of_full b hfull]
      exact .inl (Nat.zero_le _)
  · rw [runCommand_buf hrun]
    exact .inl (s.removeHead_keeps_bound _)
  · exact .inl le_rfl
  · rw [haccess]
    exact .inl le_rfl

theorem exec_keeps_length_le_cap {i : Instr} {s t : State} (hle : s.buf.length ≤ s.cap) (h : exec i s = .next t) :
    t.buf.length ≤ s.cap := by
  obtain hshorter | ⟨b, -, hroom, hone⟩ := exec_length_cases h
  · exact hshorter.trans hle
  · exact hone.trans_le hroom

/-- Settles O5: CAP stays, and the length's two cases. -/
theorem lengthNeverExceedsCapacity : Obligations.LengthNeverExceedsCapacity := by
  unfold Obligations.LengthNeverExceedsCapacity
  exact fun i s t hle h => ⟨exec_keeps_cap h, exec_keeps_length_le_cap hle h, exec_length_cases h⟩

/-! ## RESULT (R66, R124) -/

/-- The invariant's part about RESULT: a code of R66, and a value no larger than CAP that is 0 beside WAIT, ERR_RANGE
and ERR_CMD. -/
structure ResultLegal (code : BitVec 4) (value : BitVec 16) (cap : Nat) : Prop where
  codeLegal : code.toNat ≤ 5
  valueLe : value.toNat ≤ cap
  valueZero : code = 1 ∨ code = 4 ∨ code = 5 → value = 0

theorem State.Inv.resultLegal {s : State} (h : s.Inv) : ResultLegal s.rcode s.rvalue s.cap :=
  ⟨h.codeLegal, h.valueLe, h.valueZero⟩

theorem ResultCode.eq_of_bits {code : ResultCode} (h : code.bits = 1 ∨ code.bits = 4 ∨ code.bits = 5) :
    code = .wait ∨ code = .errRange ∨ code = .errCmd := by
  revert h
  cases code <;> decide

/-- A command leaves a legal RESULT: its value counts bytes that were held, and they fit CAP. -/
theorem runCommand_resultLegal {c : Command} {s t : State} (hle : s.buf.length ≤ s.cap)
    (h : runCommand c s = .next t) : ResultLegal t.rcode t.rvalue s.cap := by
  obtain ⟨u, code, value, hend⟩ := exists_endsAs c s
  obtain rfl := hend.next_eq h
  refine ⟨code.bits_le_five, ?_, fun hcode => ?_⟩
  · exact (Nat.mod_le value _).trans (hend.valueLe.trans hle)
  · exact congrArg (BitVec.ofNat 16) (hend.valueZero (ResultCode.eq_of_bits hcode))

theorem exec_resultLegal {i : Instr} {s t : State} (hinv : s.Inv) (h : exec i s = .next t) :
    ResultLegal t.rcode t.rvalue s.cap := by
  obtain ⟨b, -, rfl⟩ | ⟨c, -, hrun⟩ | ⟨w, -, rfl⟩ | haccess := exec_next_cases h
  · rw [s.receive_rcode, s.receive_rvalue]
    exact hinv.resultLegal
  · exact runCommand_resultLegal hinv.lengthLe hrun
  · exact ⟨ResultCode.errCmd.bits_le_five, Nat.zero_le _, fun _ => rfl⟩
  · rw [haccess]
    exact hinv.resultLegal

/-! ## The invariant -/

theorem State.resetWith_inv {cap : Nat} (hlow : 4 ≤ cap) (hhigh : cap ≤ 65535) : (State.resetWith cap).Inv where
  capLow := hlow
  capHigh := hhigh
  lengthLe := Nat.zero_le cap
  codeLegal := Nat.zero_le 5
  valueLe := Nat.zero_le cap
  valueZero _ := rfl
  resetHeld _ := State.resetWith_atResetValues cap

/-- Settles O3: `Config.cap` is 4 more than a number below 65532. -/
theorem resetStateMeetsInvariant : Obligations.ResetStateMeetsInvariant := by
  unfold Obligations.ResetStateMeetsInvariant
  have hextra := Config.capExtra.isLt
  exact State.resetWith_inv (Nat.le_add_left 4 _) (by rw [Config.cap]; omega)

/-- The operations still to come are no part of the invariant. -/
theorem State.Inv.with_pending {s : State} (h : s.Inv) (rest : List Event) : ({ s with pending := rest } : State).Inv :=
  ⟨h.capLow, h.capHigh, h.lengthLe, h.codeLegal, h.valueLe, h.valueZero, h.resetHeld⟩

/-- Reset takes effect whole, whatever the level is then (R165). -/
theorem State.Inv.takeReset {s : State} (h : s.Inv) (level : Bool) : (s.takeReset level).Inv :=
  have hreset := State.resetWith_inv h.capLow h.capHigh
  ⟨hreset.capLow, hreset.capHigh, hreset.lengthLe, hreset.codeLegal, hreset.valueLe, hreset.valueZero,
    fun _ => State.resetWith_atResetValues s.cap⟩

/-- Releasing reset ends the claim about the reset values, and leaves the rest. -/
theorem State.Inv.releaseReset {s : State} (h : s.Inv) : ({ s with inReset := false } : State).Inv :=
  ⟨h.capLow, h.capHigh, h.lengthLe, h.codeLegal, h.valueLe, h.valueZero, nofun⟩

/-- Outside reset every instruction keeps the invariant. -/
theorem exec_keeps_inv {i : Instr} {s t : State} (hinv : s.Inv) (hreset : s.inReset = false) (h : exec i s = .next t) :
    t.Inv := by
  have hcap := exec_keeps_cap h
  have hresult := exec_resultLegal hinv h
  rw [← hcap] at hresult
  exact {
    capLow := hcap ▸ hinv.capLow
    capHigh := hcap ▸ hinv.capHigh
    lengthLe := hcap ▸ exec_keeps_length_le_cap hinv.lengthLe h
    codeLegal := hresult.codeLegal
    valueLe := hresult.valueLe
    valueZero := hresult.valueZero
    resetHeld := fun hheld => absurd ((exec_keeps_inReset h).symm.trans hheld) (by simp [hreset]) }

/-- Settles O4: a step idles, lets reset act, loses a byte during reset, or executes an instruction outside reset. -/
theorem everyStepKeepsInvariant : Obligations.EveryStepKeepsInvariant := by
  unfold Obligations.EveryStepKeepsInvariant
  intro s t hinv h
  obtain ⟨-, rfl⟩ | ⟨rest, -, rfl⟩ | ⟨rest, -, rfl⟩ | ⟨b, rest, -, -, rfl⟩ | ⟨b, rest, -, hreset, hexec⟩ |
    ⟨a, i, rest, -, hreset, -, hexec⟩ := step_next_cases h
  · exact hinv
  · exact (hinv.with_pending rest).takeReset true
  · exact (hinv.with_pending rest).releaseReset
  · exact hinv.with_pending rest
  · exact exec_keeps_inv (hinv.with_pending rest) hreset hexec
  · exact exec_keeps_inv (hinv.with_pending rest) hreset hexec

end Sys2Proof.Machine
end

section
/-! What the FIFO's commands and STATUS show of the content (R116, R118, R138). -/

namespace Sys2Proof.Machine

/-! ## Fields within a word (R116) -/

/-- The low half of an assembled word is its first two bytes, as a sum and as an OR. -/
theorem setWidth_le32 (b0 b1 b2 b3 : Byte) :
    ((le32 b0 b1 b2 b3).setWidth 16).toNat = (b0.setWidth 32).toNat + 256 * (b1.setWidth 32).toNat ∧
    ((le32 b0 b1 b2 b3).setWidth 16).setWidth 32 = b0.setWidth 32 ||| b1.setWidth 32 <<< 8 := by
  have hwide (b : Byte) : (b.setWidth 32).toNat = b.toNat := BitVec.toNat_setWidth_of_le (by decide)
  have hsum : ((le32 b0 b1 b2 b3).setWidth 16).toNat = b0.toNat + 256 * b1.toNat := by
    rw [BitVec.toNat_setWidth, toNat_le32]
    omega
  refine ⟨by rw [hsum, hwide, hwide], BitVec.eq_of_toNat_eq ?_⟩
  rw [BitVec.toNat_setWidth_of_le (by decide), hsum,
    toNat_or_byte_shiftLeft _ b1 8 (by decide) ((hwide b0).trans_lt b0.isLt), hwide]
  rfl

/-- Settles O24: the two bytes PEEK gives are the first two of the word's four; the second index does not wrap. -/
theorem sixteenBitFieldFromPeekWord : Obligations.SixteenBitFieldFromPeekWord := by
  unfold Obligations.SixteenBitFieldFromPeekWord
  intro i s hheld hfits
  have hnext : (i + 1).toNat = i.toNat + 1 := by
    rw [BitVec.toNat_add]
    exact Nat.mod_eq_of_lt (by change _ + 1 < _; omega)
  refine ⟨_, _, _, (exec_peekWord_of_le hheld).trans (State.finishCommand_eq ..),
    (exec_peek_of_lt (by omega)).trans (State.finishCommand_eq ..),
    (exec_peek_of_lt (by omega)).trans (State.finishCommand_eq ..), ?_⟩
  simp only [hnext]
  exact setWidth_le32 ..

/-! ## EMPTY and FULL (R118) -/

theorem State.isEmpty_iff (s : State) : s.isEmpty = true ↔ s.buf.length = 0 := beq_iff_eq

theorem State.isFull_iff (s : State) : s.isFull = true ↔ s.buf.length = s.cap := beq_iff_eq

/-- STATUS's LEN, EMPTY and FULL (R26): a bit and the low half are read off the word's value, in which OVF stands
between them. -/
theorem State.statusWord_fields {s : State} (hlen : s.buf.length ≤ 65535) :
    (s.statusWord.getLsbD 17 = true ↔ s.buf.length = 0) ∧ (s.statusWord.getLsbD 18 = true ↔ s.buf.length = s.cap) ∧
      (s.statusWord.extractLsb' 0 16).toNat = s.buf.length := by
  have hvalue := State.toNat_statusWord hlen
  simp only [State.isEmpty_iff, State.isFull_iff] at hvalue
  simp only [BitVec.getLsbD, Nat.testBit_eq_decide_div_mod_eq, decide_eq_true_iff, BitVec.extractLsb'_toNat,
    Nat.shiftRight_zero, hvalue]
  split_ifs <;> omega

/-- Settles O26: CAP is at least 4, so no length is both 0 and CAP. -/
theorem emptyAndFullNeverTogether : Obligations.EmptyAndFullNeverTogether := by
  unfold Obligations.EmptyAndFullNeverTogether
  intro s hinv
  obtain ⟨hempty, hfull, hlen⟩ := State.statusWord_fields hinv.length_le
  refine ⟨s.statusWord, s.finishRead_eq _, ?_, ?_⟩
  · rw [hempty, hfull]
    have hcap := hinv.capLow
    omega
  · rw [hempty, ← BitVec.toNat_inj, hlen]
    rfl

/-! ## What SYNC_STEP keeps (R138) -/

/-- Dropping the bytes before an occurrence moves it to the head. -/
theorem PatternAt.drop {pattern : Word} {buf : List Byte} {r : Nat} (h : PatternAt pattern buf r) :
    PatternAt pattern (buf.drop r) 0 := by
  obtain ⟨hlen, hbytes⟩ := h
  refine ⟨by rw [List.length_drop]; omega, fun k hk => ?_⟩
  rw [List.getElem?_drop, Nat.zero_add, hbytes k hk]

/-- Settles O35: with fewer than four bytes the content stays; from a first match on it stays; and without a match
there is no byte to keep. -/
theorem syncStepKeepsFromFirstMatchOn : Obligations.SyncStepKeepsFromFirstMatchOn := by
  unfold Obligations.SyncStepKeepsFromFirstMatchOn
  intro s t h
  obtain hshort | hlong := Nat.lt_or_ge s.buf.length 4
  · rw [exec_syncStep_of_short hshort] at h
    obtain rfl := (s.finishCommand_next_iff t _ _).mp h
    simp [ResultCode.bits, List.drop_suffix]
  · obtain ⟨r, hfirst⟩ | hnowhere := exists_firstPatternAt_or_nowhere s.pattern s.buf
    · rw [exec_syncStep_of_first hfirst] at h
      obtain rfl := (State.finishCommand_next_iff _ t _ _).mp h
      have hhead := hfirst.1.drop
      have hleast {j : Nat} (hj : PatternAt s.pattern s.buf j) : r ≤ j :=
        Nat.le_of_not_lt fun hlt => hfirst.2 j hlt hj
      exact ⟨fun _ => ⟨hhead, hhead.1⟩, fun hcode => absurd hcode (show ResultCode.found.bits ≠ 3 by decide),
        fun hcode => absurd hcode (show ResultCode.found.bits ≠ 1 by decide), .inr (.inl rfl),
        fun j hj => List.drop_suffix_drop_left _ (hleast hj)⟩
    · rw [exec_syncStep_of_nowhere hlong hnowhere] at h
      obtain rfl := (State.finishCommand_next_iff _ t _ _).mp h
      simp [ResultCode.bits, hnowhere]

end Sys2Proof.Machine
end

section
/-! The writers of the other registers (R28 to R31), and what writing them twice or resetting them in software does
(R50, R169). -/

namespace Sys2Proof.Machine

/-! ## The writers of DATA, PATTERN, CRC_ACC and RESULT (R28 to R31) -/

/-- The kinds of instruction with the register accesses told apart by what they write: PATTERN its own write, CRC_ACC
its own write and CRC_DATA, and every other access OVF at most. -/
theorem exec_writer_cases {i : Instr} {s t : State} (h : exec i s = .next t) :
    (∃ b, i = .push b ∧ t = s.receive b) ∨
    (∃ c, Performs i c ∧ runCommand c s = .next t) ∨
    (∃ w, i = .wrCmd w ∧ t = s.withErrCmd) ∨
    ((∃ v, i = .wrPattern v) ∧ t = { s with pattern := t.pattern, response := t.response }) ∨
    (((∃ v, i = .wrCrcAcc v) ∨ ∃ w, i = .wrCrcData w) ∧ t = { s with crcAcc := t.crcAcc, response := t.response }) ∨
    t = { s with ovf := t.ovf, response := t.response } := by
  cases i with
  | push b => exact .inl ⟨b, rfl, (Host.Outcome.next.inj h).symm⟩
  | nop => exact .inr (.inl ⟨.nop, .inl rfl, h⟩)
  | clear => exact .inr (.inl ⟨.clear, .inl rfl, h⟩)
  | consume n => exact .inr (.inl ⟨.consume n, .inl rfl, h⟩)
  | peek x => exact .inr (.inl ⟨.peek x, .inl rfl, h⟩)
  | peekWord x => exact .inr (.inl ⟨.peekWord x, .inl rfl, h⟩)
  | find => exact .inr (.inl ⟨.find, .inl rfl, h⟩)
  | syncStep => exact .inr (.inl ⟨.syncStep, .inl rfl, h⟩)
  | crcFifo a => exact .inr (.inl ⟨.crcFifo a, .inl rfl, h⟩)
  | crcInit => exact .inr (.inl ⟨.crcInit, .inl rfl, h⟩)
  | wrCmd w =>
    cases hdec : decodeCommand w with
    | ok c => exact .inr (.inl ⟨c, .inr ⟨w, rfl, hdec⟩, by rw [← exec_toInstr, ← exec_wrCmd_of_ok hdec, h]⟩)
    | error e =>
      rw [exec_wrCmd_of_error hdec] at h
      exact .inr (.inr (.inl ⟨w, rfl, (Host.Outcome.next.inj h).symm⟩))
  | wrPattern v =>
    obtain rfl := (State.finishWrite_next_iff _ t).mp h
    exact .inr (.inr (.inr (.inl ⟨⟨v, rfl⟩, rfl⟩)))
  | wrCrcAcc v =>
    obtain rfl := (State.finishWrite_next_iff _ t).mp h
    exact .inr (.inr (.inr (.inr (.inl ⟨.inl ⟨v, rfl⟩, rfl⟩))))
  | wrCrcData w =>
    obtain rfl := (State.finishWrite_next_iff _ t).mp h
    exact .inr (.inr (.inr (.inr (.inl ⟨.inr ⟨w, rfl⟩, rfl⟩))))
  | wrStatus v =>
    obtain rfl := (State.finishWrite_next_iff _ t).mp h
    exact .inr (.inr (.inr (.inr (.inr rfl))))
  | rdStatus | rdResult | rdData | rdPattern | rdCrcAcc | rdCapacity =>
    obtain rfl := (s.finishRead_next_iff t _).mp h
    exact .inr (.inr (.inr (.inr (.inr rfl))))

/-- What a command leaves in DATA and CRC_ACC (R29, R31). -/
theorem runCommand_writers {c : Command} {s t : State} (h : runCommand c s = .next t) :
    (t.data = s.data ∨ ((∃ x, c = .peek x ∨ c = .peekWord x) ∧ t.rcode = 0)) ∧
    (t.crcAcc = s.crcAcc ∨ c = .crcInit ∨ ∃ a, c = .crcFifo a) := by
  obtain ⟨u, code, value, hend⟩ := exists_endsAs c s
  obtain rfl := hend.next_eq h
  refine ⟨hend.dataWriters.imp_right fun ⟨hpeek, hok⟩ => ⟨hpeek, ?_⟩, hend.crcAccWriters⟩
  rw [hok]
  rfl

/-- Settles O53: each kind of instruction leaves the registers that are not its own. -/
theorem registerWriters : Obligations.RegisterWriters := by
  unfold Obligations.RegisterWriters
  intro i s t h
  suffices hregs : (t.data = s.data ∨ ((∃ x, Performs i (.peek x) ∨ Performs i (.peekWord x)) ∧ t.rcode = 0)) ∧
      (t.pattern = s.pattern ∨ ∃ v, i = .wrPattern v) ∧
      (t.crcAcc = s.crcAcc ∨ Performs i .crcInit ∨ (∃ a, Performs i (.crcFifo a)) ∨ (∃ v, i = .wrCrcAcc v) ∨
        ∃ w, i = .wrCrcData w) ∧
      ((t.rcode = s.rcode ∧ t.rvalue = s.rvalue) ∨ (∃ c, Performs i c) ∨ ∃ w, i = .wrCmd w) by
    obtain ⟨hdata, hpattern, hcrc, hresult⟩ := hregs
    exact ⟨hdata.resolve_left, hpattern.resolve_left, hcrc.resolve_left,
      fun hne => hresult.resolve_left fun ⟨hcode, hvalue⟩ => hne.elim (· hcode) (· hvalue),
      exec_keeps_cap h, exec_keeps_inReset h, exec_keeps_pending h⟩
  obtain ⟨b, -, rfl⟩ | ⟨c, hperforms, hrun⟩ | ⟨w, hw, rfl⟩ | ⟨hpattern, hframe⟩ | ⟨hcrc, hframe⟩ | hframe :=
    exec_writer_cases h
  · exact ⟨.inl (s.receive_data b), .inl (s.receive_pattern b), .inl (s.receive_crcAcc b),
      .inl ⟨s.receive_rcode b, s.receive_rvalue b⟩⟩
  · obtain ⟨hdata, hcrc⟩ := runCommand_writers hrun
    refine ⟨hdata.imp_right ?_, .inl (by rw [runCommand_frame hrun]), hcrc.imp_right ?_, .inr (.inl ⟨c, hperforms⟩)⟩
    · rintro ⟨⟨x, rfl | rfl⟩, hok⟩
      · exact ⟨⟨x, .inl hperforms⟩, hok⟩
      · exact ⟨⟨x, .inr hperforms⟩, hok⟩
    · rintro (rfl | ⟨a, rfl⟩)
      · exact .inl hperforms
      · exact .inr (.inl ⟨a, hperforms⟩)
  · exact ⟨.inl rfl, .inl rfl, .inl rfl, .inr (.inr ⟨w, hw⟩)⟩
  · rw [hframe]
    exact ⟨.inl rfl, .inr hpattern, .inl rfl, .inl ⟨rfl, rfl⟩⟩
  · rw [hframe]
    exact ⟨.inl rfl, .inl rfl, .inr (.inr (.inr hcrc)), .inl ⟨rfl, rfl⟩⟩
  · rw [hframe]
    exact ⟨.inl rfl, .inl rfl, .inl rfl, .inl ⟨rfl, rfl⟩⟩

/-! ## Writing twice (R50) -/

/-- Clearing OVF, or leaving it, twice is the same as once. -/
theorem ovfAfterStatusWrite_twice (v : Word) (ovf : Bool) :
    ovfAfterStatusWrite v (ovfAfterStatusWrite v ovf) = ovfAfterStatusWrite v ovf := by
  rw [ovfAfterStatusWrite, ovfAfterStatusWrite, Bool.and_assoc, Bool.and_self]

/-- Settles O55: the register holds the value already, and the bus has answered the same. -/
theorem loadingWritesAreIdempotent : Obligations.LoadingWritesAreIdempotent := by
  unfold Obligations.LoadingWritesAreIdempotent
  intro v i hi s
  simp only [List.mem_cons, List.not_mem_nil, or_false] at hi
  obtain rfl | rfl | rfl := hi
  · exact ⟨_, rfl, rfl⟩
  · exact ⟨_, rfl, rfl⟩
  · refine ⟨_, State.finishWrite_eq _, ?_⟩
    rw [exec_wrStatus, State.finishWrite_eq, ovfAfterStatusWrite_twice]

/-! ## The reset in software (R169) -/

/-- The STATUS write with bit 16 alone clears OVF, whatever it was. -/
theorem exec_wrStatus_clear (s : State) :
    exec (.wrStatus 0x00010000) s = .next { s with ovf := false, response := .writeOk } := by
  rw [exec_wrStatus, State.finishWrite_eq, show ovfAfterStatusWrite 0x00010000 s.ovf = false from Bool.and_false _]

/-- Settles O57: each of the five restores its registers, and the last leaves (OK, 0) in RESULT. -/
theorem softResetRestoresAllButData : Obligations.SoftResetRestoresAllButData := by
  unfold Obligations.SoftResetRestoresAllButData
  intro s hreset hpending
  have hgoal : ({ State.resetWith s.cap with data := s.data, response := .writeOk } : State) =
      { State.resetWith s.cap with data := s.data, inReset := s.inReset, response := .writeOk } := by
    rw [hreset]
    rfl
  rw [hgoal]
  refine Eq.trans (runSteps_succ_of_eventOf (n := 4) (i := .clear) hreset hpending rfl rfl) ?_
  refine Eq.trans (runSteps_succ_of_eventOf (n := 3) hreset rfl rfl (exec_wrStatus_clear _)) ?_
  refine Eq.trans (runSteps_succ_of_eventOf (n := 2) (i := .crcInit) hreset rfl rfl rfl) ?_
  refine Eq.trans (runSteps_succ_of_eventOf (n := 1) (i := .wrPattern 0x00400004) hreset rfl rfl rfl) ?_
  exact runSteps_succ_of_eventOf (n := 0) (i := .nop) hreset rfl rfl rfl

end Sys2Proof.Machine
end

section
/-! The algebra of the CRC (R88, R92): the word step is 32 one-bit reductions, each of them linear over GF(2) and
injective, and what follows for the CRC of a region. -/

namespace Sys2Proof.Machine

/-! ## One bit -/

/-- One reduction is linear over GF(2): shifts are, and the two choices of P cancel or add up. -/
theorem crcBit_xor (a b : Word) : crcBit (a ^^^ b) = crcBit a ^^^ crcBit b := by
  have hcancel : (a <<< 1 ^^^ crcPoly) ^^^ (b <<< 1 ^^^ crcPoly) = a <<< 1 ^^^ b <<< 1 := by
    rw [show (a <<< 1 ^^^ crcPoly) ^^^ (b <<< 1 ^^^ crcPoly) = a <<< 1 ^^^ b <<< 1 ^^^ (crcPoly ^^^ crcPoly) by ac_rfl,
      BitVec.xor_self, BitVec.xor_zero]
  simp only [crcBit, BitVec.msb_xor, BitVec.shiftLeft_xor_distrib]
  cases a.msb <;> cases b.msb
  · rfl
  · exact BitVec.xor_assoc ..
  · change a <<< 1 ^^^ b <<< 1 ^^^ crcPoly = a <<< 1 ^^^ crcPoly ^^^ b <<< 1
    ac_rfl
  · exact hcancel.symm

/-- Only 0 reduces to 0: P is odd, so a reduction that adds P leaves bit 0 set, and one that does not loses no bit. -/
theorem eq_zero_of_crcBit_eq_zero {c : Word} (h : crcBit c = 0) : c = 0 := by
  unfold crcBit at h
  split at h
  next hmsb =>
    have hodd : (c <<< 1 ^^^ crcPoly).getLsbD 0 = true := by simp [crcPoly]
    rw [h] at hodd
    cases hodd
  next hmsb =>
    have hdouble : c.toNat * 2 % 2 ^ 32 = 0 := by
      rw [← Nat.shiftLeft_eq c.toNat 1, ← BitVec.toNat_shiftLeft, h]
      rfl
    rw [BitVec.msb_eq_decide, decide_eq_true_iff] at hmsb
    apply BitVec.eq_of_toNat_eq
    change c.toNat = 0
    omega

theorem crcBit_injective : Function.Injective crcBit := fun a b h =>
  BitVec.xor_eq_zero_iff.mp (eq_zero_of_crcBit_eq_zero (by rw [crcBit_xor, h, BitVec.xor_self]; rfl))

theorem crcBit_iterate_xor (n : Nat) (a b : Word) : crcBit^[n] (a ^^^ b) = crcBit^[n] a ^^^ crcBit^[n] b := by
  induction n generalizing a b with
  | zero => rfl
  | succ n ih => rw [Function.iterate_succ_apply, crcBit_xor, ih]; rfl

/-! ## Four bits, and 32 (R88) -/

/-- While no set bit reaches bit 31 the reductions only shift. -/
theorem crcBit_iterate_of_small (n : Nat) (c : Word) (h : 2 ^ n * c.toNat < 2 ^ 32) : crcBit^[n] c = c <<< n := by
  induction n with
  | zero => exact (BitVec.shiftLeft_zero c).symm
  | succ n ih =>
    have hnext : 2 * (2 ^ n * c.toNat) < 2 ^ 32 := by rwa [← mul_assoc, ← pow_succ']
    have hvalue : (c <<< n).toNat = 2 ^ n * c.toNat := by
      rw [BitVec.toNat_shiftLeft, Nat.shiftLeft_eq, Nat.mul_comm, Nat.mod_eq_of_lt (by omega)]
    have hmsb : (c <<< n).msb = false := by
      rw [BitVec.msb_eq_decide, hvalue, decide_eq_false_iff_not]
      omega
    rw [Function.iterate_succ_apply', ih (by omega), crcBit, hmsb, if_neg Bool.false_ne_true, BitVec.shiftLeft_add]

/-- A word is its top nibble and its other 28 bits. -/
theorem topNibble_xor_rest (c : Word) :
    (c.extractLsb' 28 4).setWidth 32 <<< 28 ^^^ (c.setWidth 28).setWidth 32 = c := by
  ext k hk
  by_cases h : k < 28
  · simp [h, BitVec.getLsbD_eq_getElem hk]
  · simp [h, show k - 28 < 4 by omega, Nat.add_sub_cancel' (Nat.le_of_not_lt h),
      BitVec.getLsbD_eq_getElem hk]

/-- Shifting by a nibble drops the top one. -/
theorem rest_shiftLeft (c : Word) : (c.setWidth 28).setWidth 32 <<< 4 = c <<< 4 := by
  ext k hk
  by_cases h : k < 4
  · simp [h]
  · simp [h, show k - 4 < 28 by omega, BitVec.getLsbD_eq_getElem (show k - 4 < 32 by omega)]

/-- One table step is four one-bit steps: the top nibble reduces to its table entry, and the other bits are shifted. -/
theorem crcNibble_eq (c : Word) : crcNibble c = crcBit^[4] c := by
  have hsmall : 2 ^ 4 * ((c.setWidth 28).setWidth 32 : Word).toNat < 2 ^ 32 := by
    rw [BitVec.toNat_setWidth_of_le (by decide)]
    have := (c.setWidth 28).isLt
    omega
  calc crcNibble c
    _ = nibbleEntry (c.extractLsb' 28 4) ^^^ c <<< 4 := by
      rw [crcNibble, nibbleTable_eq_nibbleEntry, BitVec.xor_comm]
    _ = crcBit^[4] ((c.extractLsb' 28 4).setWidth 32 <<< 28) ^^^ crcBit^[4] ((c.setWidth 28).setWidth 32) := by
      rw [nibbleEntry, crcBit_iterate_of_small 4 _ hsmall, rest_shiftLeft]
    _ = crcBit^[4] c := by rw [← crcBit_iterate_xor, topNibble_xor_rest]

theorem crcWord_eq (acc w : Word) : crcWord acc w = crcBit^[32] (acc ^^^ w) := by
  rw [crcWord, funext crcNibble_eq, ← Function.iterate_mul]

/-- Settles O38: the statement's step is `crcBit`. -/
theorem wordStepEqualsBitwiseForm : Obligations.WordStepEqualsBitwiseForm := by
  unfold Obligations.WordStepEqualsBitwiseForm
  exact crcWord_eq

/-! ## The word step (R92 (a) to (d)) -/

/-- Settles O39: the step reduces `acc ^ w`, and the reduction is linear. -/
theorem wordStepIsLinear : Obligations.WordStepIsLinear := by
  unfold Obligations.WordStepIsLinear
  refine fun a w d => ⟨congrArg crcNibble^[8] BitVec.xor_zero.symm, crcWord_self a, ?_⟩
  have hd : d ^^^ 0 = d := BitVec.xor_zero
  rw [crcWord_eq, crcWord_eq, crcWord_eq, hd, ← crcBit_iterate_xor]
  exact congrArg crcBit^[32] (by ac_rfl)

/-- Two steps give the same only if what they reduce is the same. -/
theorem crcWord_eq_crcWord_iff {a w a' w' : Word} : crcWord a w = crcWord a' w' ↔ a ^^^ w = a' ^^^ w' := by
  rw [crcWord_eq, crcWord_eq]
  exact (crcBit_injective.iterate 32).eq_iff

theorem crcWord_left_injective (w : Word) : Function.Injective (fun a => crcWord a w) := fun _ _ h =>
  (BitVec.xor_left_inj w).mp (crcWord_eq_crcWord_iff.mp h)

theorem crcWord_right_injective (a : Word) : Function.Injective (crcWord a) := fun _ _ h =>
  (BitVec.xor_right_inj a).mp (crcWord_eq_crcWord_iff.mp h)

/-- Settles O40: an injective map of the 32-bit values to themselves is a bijection. -/
theorem wordStepIsBijective : Obligations.WordStepIsBijective := by
  unfold Obligations.WordStepIsBijective
  exact fun w => Finite.injective_iff_bijective.mp (crcWord_left_injective w)

/-! ## A region (R92 (e), (f)) -/

/-- The same words after them keep two accumulators apart. -/
theorem foldl_crcWord_injective (words : List Word) : Function.Injective (fun acc => words.foldl crcWord acc) := by
  induction words with
  | nil => exact Function.injective_id
  | cons w words ih => exact ih.comp (crcWord_left_injective w)

/-- A word is the little-endian word of four bytes exactly when they are its bytes. -/
theorem eq_le32_iff {v : Word} {b0 b1 b2 b3 : Byte} :
    v = le32 b0 b1 b2 b3 ↔ byteOf v 0 = b0 ∧ byteOf v 1 = b1 ∧ byteOf v 2 = b2 ∧ byteOf v 3 = b3 := by
  constructor
  · rintro rfl
    exact byteOf_le32 b0 b1 b2 b3
  · rintro ⟨rfl, rfl, rfl, rfl⟩
    exact (le32_byteOf v).symm

theorem le32_injective {b0 b1 b2 b3 c0 c1 c2 c3 : Byte} (h : le32 b0 b1 b2 b3 = le32 c0 c1 c2 c3) :
    [b0, b1, b2, b3] = [c0, c1, c2, c3] := by
  obtain ⟨hb0, hb1, hb2, hb3⟩ := byteOf_le32 b0 b1 b2 b3
  obtain ⟨hc0, hc1, hc2, hc3⟩ := eq_le32_iff.mp h
  rw [← hc0, ← hc1, ← hc2, ← hc3, hb0, hb1, hb2, hb3]

/-- The CRC of a region, split at one of its aligned words: the words before it, the word, the words after it. -/
theorem crcBytes_split (before after : List Byte) (b0 b1 b2 b3 : Byte) {m : Nat} (halign : 4 ∣ before.length)
    (hm : before.length + 4 ≤ m) :
    crcBytes (before ++ [b0, b1, b2, b3] ++ after) m =
      (wordsOf (after.take (m - (before.length + 4)))).foldl crcWord
        (crcWord ((wordsOf before).foldl crcWord crcSeed) (le32 b0 b1 b2 b3)) := by
  have htake : (before ++ [b0, b1, b2, b3] ++ after).take m =
      before ++ b0 :: b1 :: b2 :: b3 :: after.take (m - (before.length + 4)) := by
    rw [List.take_append, List.take_of_length_le (by simpa using hm), List.append_assoc, List.length_append]
    rfl
  rw [crcBytes, htake, wordsOf_append _ _ halign, List.foldl_append]
  rfl

/-- Settles O42: the two words differ, one word step keeps them apart, and the words after it do too. -/
theorem oneWordChangeChangesCrc : Obligations.OneWordChangeChangesCrc := by
  unfold Obligations.OneWordChangeChangesCrc
  intro before after old new m hold hnew hne halign _ hm _ hcrc
  match old, new, hold, hnew with
  | [b0, b1, b2, b3], [c0, c1, c2, c3], _, _ =>
    rw [crcBytes_split before after b0 b1 b2 b3 halign hm, crcBytes_split before after c0 c1 c2 c3 halign hm] at hcrc
    exact hne (le32_injective (crcWord_right_injective _ (foldl_crcWord_injective _ hcrc)))

/-- One step ends with 0 exactly on the accumulator's own value. -/
theorem crcWord_eq_zero_iff {a w : Word} : crcWord a w = 0 ↔ a = w := by
  rw [← crcWord_self w]
  exact (crcWord_left_injective w).eq_iff

/-- Over one more word the CRC is 0 exactly when the word is the CRC so far. -/
theorem crcBytes_add_four_eq_zero_iff {bytes : List Byte} {m : Nat} (hm : 4 ∣ m) (h : m + 4 ≤ bytes.length) :
    crcBytes bytes (m + 4) = 0 ↔ crcBytes bytes m = le32 bytes[m] bytes[m + 1] bytes[m + 2] bytes[m + 3] := by
  rw [crcBytes_add_four bytes m hm h, crcWord_eq_zero_iff]

/-- Settles O43: the trailer's word is the region's CRC when its four bytes are. -/
theorem residueIsZeroIffTrailerMatches : Obligations.ResidueIsZeroIffTrailerMatches := by
  unfold Obligations.ResidueIsZeroIffTrailerMatches
  intro bytes m hm h
  rw [crcBytes_add_four_eq_zero_iff hm h, eq_le32_iff]
  have hbyte {k : Nat} (hk : k < 4) (v : Byte) : bytes[m + k]? = some v ↔ v = bytes[m + k] := by
    rw [List.getElem?_eq_getElem, Option.some.injEq, eq_comm]
  constructor
  · rintro ⟨h0, h1, h2, h3⟩ k hk
    rw [hbyte hk]
    interval_cases k
    · exact h0
    · exact h1
    · exact h2
    · exact h3
  · intro hall
    exact ⟨(hbyte (by decide) _).mp (hall 0 (by decide)), (hbyte (by decide) _).mp (hall 1 (by decide)),
      (hbyte (by decide) _).mp (hall 2 (by decide)), (hbyte (by decide) _).mp (hall 3 (by decide))⟩

end Sys2Proof.Machine
end

section
/-! The CRC as the master computes it (R97, R100): word by word through CRC_DATA, and the two checks of a frame. -/

namespace Sys2Proof.Machine

/-! ## Streaming words (R97) -/

theorem length_wordsOf (bytes : List Byte) : (wordsOf bytes).length = bytes.length / 4 := by
  induction bytes using wordsOf.induct with
  | case1 b0 b1 b2 b3 rest ih => simp only [wordsOf, List.length_cons, ih]; omega
  | case2 bytes hshort =>
    match bytes, hshort with
    | [], _ | [_], _ | [_, _], _ | [_, _, _], _ => simp [wordsOf]
    | b0 :: b1 :: b2 :: b3 :: rest, hshort => exact absurd rfl (hshort b0 b1 b2 b3 rest)

/-- One CRC_DATA write per word folds the words into CRC_ACC and leaves the content. -/
theorem runSteps_crcData (words : List Word) {s : State} {rest : List Event} (hreset : s.inReset = false)
    (hpending : s.pending = words.map (fun w => eventOf (.bus 0x38 w)) ++ rest) :
    ∃ t, runSteps words.length s = .next t ∧ t.crcAcc = words.foldl crcWord s.crcAcc ∧ t.buf = s.buf ∧
      t.pending = rest := by
  induction words generalizing s with
  | nil => exact ⟨s, runSteps_zero s, rfl, rfl, hpending⟩
  | cons w words ih =>
    have hstep := runSteps_succ_of_eventOf (n := words.length) (i := .wrCrcData w) hreset hpending rfl
      (State.finishWrite_eq _)
    obtain ⟨t, hrun, hcrc, hbuf, hrest⟩ := ih (s := { s with
      crcAcc := crcWord s.crcAcc w, response := .writeOk
      pending := words.map (fun w => eventOf (.bus 0x38 w)) ++ rest }) hreset rfl
    exact ⟨t, hstep.trans hrun, hcrc, hbuf, hrest⟩

/-- Settles O49: CRC_INIT seeds the accumulator, and the words of the sequence are folded into it as `crcBytes` folds
them. -/
theorem wordStreamEqualsRegionCrc : Obligations.WordStreamEqualsRegionCrc := by
  unfold Obligations.WordStreamEqualsRegionCrc
  intro bytes s rest _ hreset hpending
  obtain ⟨t, hrun, hcrc, hbuf, hrest⟩ := runSteps_crcData (wordsOf bytes) (rest := rest) (s := { s with
    crcAcc := crcSeed, rcode := 0, rvalue := 0, response := .writeOk
    pending := (wordsOf bytes).map (fun w => eventOf (.bus 0x38 w)) ++ rest }) hreset rfl
  refine ⟨t, ?_, ?_, hbuf, hrest⟩
  · rw [← length_wordsOf]
    exact (runSteps_succ_of_eventOf (i := .crcInit) hreset hpending rfl rfl).trans hrun
  · rw [hcrc, crcBytes, List.take_length]

/-! ## A frame (R100) -/

/-- Settles O50: the CRC over the trailer too is 0 exactly when the trailer's word is the CRC before it. -/
theorem frameCheckIsResidueCheck : Obligations.FrameCheckIsResidueCheck := by
  unfold Obligations.FrameCheckIsResidueCheck
  intro s hheld
  have h68 : coveredLength 68 = 68 := by decide
  have h72 : coveredLength 72 = 72 := by decide
  refine ⟨_, _, _, (exec_crcFifo_of_le (by omega)).trans (State.finishCommand_eq ..),
    Eq.trans (exec_peekWord_of_le (i := 68) ?_) (State.finishCommand_eq ..),
    (exec_crcFifo_of_le (by omega)).trans (State.finishCommand_eq ..), ?_⟩
  · exact hheld
  simp only [h68, h72]
  exact (crcBytes_add_four_eq_zero_iff (m := 68) (by decide) hheld).symm

end Sys2Proof.Machine
end

section
/-! Bursts of the producer (R109, R139): what any number of pushes leaves, and what one SYNC_STEP then finds. -/

namespace Sys2Proof.Machine

/-! ## Runs in two parts -/

theorem runSteps_add_of_next {m n : Nat} {s t : State} (h : runSteps m s = .next t) :
    runSteps (m + n) s = runSteps n t := by
  induction m generalizing s with
  | zero =>
    obtain rfl : s = t := Host.Outcome.next.inj h
    rw [Nat.zero_add]
  | succ m ih =>
    obtain ⟨u, hstep, hrun⟩ := runSteps_succ_cases h
    rw [Nat.add_right_comm, runSteps_succ_of_next _ s u hstep, ih hrun]

theorem runSteps_succ_of_push {n : Nat} {s : State} {b : Byte} {rest : List Event} (hreset : s.inReset = false)
    (hpending : s.pending = .push b :: rest) :
    runSteps (n + 1) s = runSteps n (({ s with pending := rest } : State).receive b) :=
  runSteps_succ_of_next n s _ (step_of_push s b rest hpending hreset)

/-! ## A burst (R109) -/

/-- What a burst leaves of the content and its own bytes: each overflow takes `cap` bytes held and the one that found
no room. -/
def burstContent (cap : Nat) (content bytes : List Byte) : List Byte :=
  (content ++ bytes).drop ((cap + 1) * ((content.length + bytes.length) / (cap + 1)))

theorem burstContent_of_fits {cap : Nat} {content bytes : List Byte} (h : content.length + bytes.length ≤ cap) :
    burstContent cap content bytes = content ++ bytes := by
  rw [burstContent, Nat.div_eq_of_lt (Nat.lt_succ_of_le h), Nat.mul_zero, List.drop_zero]

/-- A byte with room joins the content. -/
theorem burstContent_cons (cap : Nat) (content : List Byte) (b : Byte) (bytes : List Byte) :
    burstContent cap content (b :: bytes) = burstContent cap (content ++ [b]) bytes := by
  simp only [burstContent, List.append_assoc, List.singleton_append, List.length_append, List.length_cons,
    List.length_nil, Nat.zero_add, Nat.add_assoc, Nat.add_comm 1]

/-- A full content and the byte that finds it so are one whole group, and the rest of the burst starts from nothing. -/
theorem burstContent_of_full {cap : Nat} {content : List Byte} (hfull : content.length = cap) (b : Byte)
    (bytes : List Byte) : burstContent cap content (b :: bytes) = burstContent cap [] bytes := by
  have hgroup : (content ++ [b]).length = cap + 1 := by rw [List.length_append, hfull]; rfl
  rw [burstContent_cons, burstContent, hgroup, Nat.add_div_left _ (Nat.succ_pos cap), Nat.mul_succ, Nat.add_comm,
    ← List.drop_drop, List.drop_left' hgroup, burstContent, List.nil_append, List.length_nil, Nat.zero_add]

/-- The state after a burst, the operations after it still to come. -/
def State.afterBurst (s : State) (bytes : List Byte) (rest : List Event) : State :=
  { s with
    buf := burstContent s.cap s.buf bytes
    ovf := s.ovf || decide (s.cap < s.buf.length + bytes.length)
    pending := rest }

theorem State.afterBurst_nil {s : State} (hle : s.buf.length ≤ s.cap) : s.afterBurst [] s.pending = s := by
  have hfits : ¬ s.cap < s.buf.length + ([] : List Byte).length := Nat.not_lt.mpr hle
  rw [State.afterBurst, burstContent_of_fits hle, List.append_nil, decide_eq_false hfits, Bool.or_false]

/-- A byte received outside reset is the first of its burst, whether it finds room or not. -/
theorem State.afterBurst_receive {s : State} (hle : s.buf.length ≤ s.cap) (b : Byte) (bytes : List Byte)
    (rest : List Event) : (s.receive b).afterBurst bytes rest = s.afterBurst (b :: bytes) rest := by
  obtain hroom | hfull := Nat.lt_or_ge s.buf.length s.cap
  · have hlen : (s.buf ++ [b]).length + bytes.length = s.buf.length + (b :: bytes).length := by
      rw [List.length_append, List.length_cons, List.length_cons, List.length_nil]
      omega
    rw [s.receive_of_room b hroom, State.afterBurst, State.afterBurst, burstContent_cons, hlen]
  · have hover : s.cap < s.buf.length + (b :: bytes).length := by
      rw [List.length_cons]
      omega
    rw [s.receive_of_full b hfull, State.afterBurst, State.afterBurst, burstContent_of_full (hle.antisymm hfull),
      decide_eq_true hover, Bool.or_true, Bool.true_or]

theorem runSteps_burst (bytes : List Byte) {s : State} {rest : List Event} (hreset : s.inReset = false)
    (hle : s.buf.length ≤ s.cap) (hpending : s.pending = bytes.map .push ++ rest) :
    runSteps bytes.length s = .next (s.afterBurst bytes rest) := by
  induction bytes generalizing s with
  | nil =>
    obtain rfl : s.pending = rest := hpending
    rw [State.afterBurst_nil hle]
    rfl
  | cons b bytes ih =>
    refine Eq.trans (runSteps_succ_of_push hreset hpending) (Eq.trans (ih ?_ ?_ ?_) ?_)
    · exact (State.receive_inReset _ b).trans hreset
    · exact (State.receive_keeps_bound _ b).trans_eq (State.receive_cap _ b).symm
    · exact State.receive_pending _ b
    · exact congrArg Host.Outcome.next
        (State.afterBurst_receive (s := { s with pending := bytes.map .push ++ rest }) hle b bytes rest)

/-- Settles O18: the closed form is `State.afterBurst`. -/
theorem burstLeavesTailAfterOverflows : Obligations.BurstLeavesTailAfterOverflows := by
  unfold Obligations.BurstLeavesTailAfterOverflows
  exact fun s bytes rest => runSteps_burst bytes

/-! ## Convergence (R139) -/

/-- After a burst that an empty FIFO has room for, the next operation runs on a state that holds the burst's bytes. -/
theorem exists_burst_of_empty {bytes : List Byte} {s : State} {e : Encoded} {i : Instr} {rest : List Event}
    (hreset : s.inReset = false) (hempty : s.buf = []) (hfits : bytes.length ≤ s.cap)
    (hpending : s.pending = bytes.map .push ++ eventOf e :: rest) (hdecode : decode e = .ok i) :
    ∃ u : State, u.buf = bytes ∧ u.pattern = s.pattern ∧
      ∀ t, exec i u = .next t → runSteps (bytes.length + 1) s = .next t := by
  have hroom : s.buf.length + bytes.length ≤ s.cap := by rwa [hempty, List.length_nil, Nat.zero_add]
  refine ⟨s.afterBurst bytes rest, ?_, rfl, fun t hexec => ?_⟩
  · exact (burstContent_of_fits hroom).trans (by rw [hempty, List.nil_append])
  · rw [runSteps_add_of_next (runSteps_burst bytes hreset ((Nat.le_add_right ..).trans hroom) hpending)]
    exact runSteps_succ_of_eventOf (n := 0) hreset rfl hdecode hexec

/-- A pattern stands in what has arrived of a stream where it stands in the stream and has arrived whole. -/
theorem patternAt_take_iff {pattern : Word} {stream : List Byte} {n j : Nat} (hn : n ≤ stream.length) :
    PatternAt pattern (stream.take n) j ↔ PatternAt pattern stream j ∧ j + 4 ≤ n := by
  have hbyte {k : Nat} (hj : j + 4 ≤ n) (hk : k < 4) : (stream.take n)[j + k]? = stream[j + k]? :=
    List.getElem?_take_of_lt (by omega)
  rw [PatternAt, PatternAt, List.length_take_of_le hn]
  constructor
  · rintro ⟨hj, hbytes⟩
    exact ⟨⟨hj.trans hn, fun k hk => (hbyte hj hk).symm.trans (hbytes k hk)⟩, hj⟩
  · rintro ⟨⟨-, hbytes⟩, hj⟩
    exact ⟨hj, fun k hk => (hbyte hj hk).trans (hbytes k hk)⟩

/-- The first pattern of the stream is the first of what has arrived, once it has arrived whole. -/
theorem FirstPatternAt.take {pattern : Word} {stream : List Byte} {k n : Nat} (h : FirstPatternAt pattern stream k)
    (hn : n ≤ stream.length) (hwhole : k + 4 ≤ n) : FirstPatternAt pattern (stream.take n) k :=
  ⟨(patternAt_take_iff hn).mpr ⟨h.1, hwhole⟩, fun j hj hat => h.2 j hj ((patternAt_take_iff hn).mp hat).1⟩

/-- Until then no pattern stands in what has arrived: it would be an earlier one of the stream. -/
theorem FirstPatternAt.not_take {pattern : Word} {stream : List Byte} {k n : Nat} (h : FirstPatternAt pattern stream k)
    (hn : n ≤ stream.length) (hpart : n < k + 4) (j : Nat) : ¬ PatternAt pattern (stream.take n) j := fun hat => by
  obtain ⟨hstream, hj⟩ := (patternAt_take_iff hn).mp hat
  exact h.2 j (by omega) hstream

/-- Settles O36: the burst fits, so the SYNC_STEP scans the first `n` bytes of the stream. -/
theorem convergenceNeedsWholePattern : Obligations.ConvergenceNeedsWholePattern := by
  unfold Obligations.ConvergenceNeedsWholePattern
  intro s stream k n rest hinv hreset hempty hfirst hn hcap hfour hpending
  have hlen : (stream.take n).length = n := List.length_take_of_le hn
  have hfits : n ≤ 65535 := hcap.trans hinv.capHigh
  obtain ⟨u, hbuf, hpattern, hrun⟩ :=
    exists_burst_of_empty (i := .syncStep) hreset hempty (hlen.trans_le hcap) hpending rfl
  rw [hlen] at hrun
  obtain hpart | hwhole := Nat.lt_or_ge n (k + 4)
  · have hnowhere : ∀ j, ¬ PatternAt u.pattern u.buf j := by
      rw [hbuf, hpattern]
      exact hfirst.not_take hn hpart
    refine ⟨_, hrun _ ((exec_syncStep_of_nowhere (by rwa [hbuf, hlen]) hnowhere).trans (State.finishCommand_eq ..)),
      fun hwhole => absurd hpart (Nat.not_lt.mpr hwhole), fun _ => ⟨rfl, ?_, rfl⟩⟩
    rw [hbuf, hlen]
    exact u.setResult_value_exact .notFound n hfits
  · have hfound : FirstPatternAt u.pattern u.buf k := by
      rw [hbuf, hpattern]
      exact hfirst.take hn hwhole
    refine ⟨_, hrun _ ((exec_syncStep_of_first hfound).trans (State.finishCommand_eq ..)),
      fun _ => ⟨rfl, u.setResult_value_exact .found k (by omega), congrArg (List.drop k) hbuf⟩,
      fun hpart => absurd hwhole (Nat.not_le.mpr hpart)⟩

end Sys2Proof.Machine
end

section
/-! The byte stream through the FIFO (R53, R58, R59): what one step without overflow takes and adds, and the run. -/

namespace Sys2Proof.Machine

/-! ## What the master's next event takes -/

theorem removedByCommand_le (c : Command) (s : State) : removedByCommand c s ≤ s.buf.length := by
  cases c with
  | consume n => exact Nat.min_le_right ..
  | clear => exact le_rfl
  | syncStep =>
    rw [removedByCommand]
    split
    · exact Nat.zero_le _
    · cases hscan : scan s.pattern s.buf with
      | none => exact le_rfl
      | some r => exact ((scan_eq_some_iff _ _ r).mp hscan).le_length
  | nop | peek | peekWord | find | crcFifo | crcInit => exact Nat.zero_le _

theorem removedByNext_of_fetch_ne {s : State} (h : ∀ w t, fetch s ≠ .run (.wrCmd w) t) : removedByNext s = 0 := by
  unfold removedByNext
  split
  next w t hfetch => exact absurd hfetch (h w t)
  next => rfl

theorem fetch_of_access {s : State} {a : Access} {rest : List Event} {i : Instr}
    (hpending : s.pending = .access a :: rest) (hreset : s.inReset = false) (hdecode : decodeAccess a = .ok i) :
    fetch s = .run i { s with pending := rest } := by
  simp [fetch, fetchEvent, hpending, hreset, hdecode]

/-- No register access is a command's own row: a command travels as a CMD write (R60, R71). -/
theorem decodeAccess_ne_toInstr (a : Access) (c : Command) : decodeAccess a ≠ .ok c.toInstr := fun h => by
  have hrow := mem_legalAccesses_of_decodeDesc (decodeDesc_of_decodeAccess h)
  cases c <;> simp [legalAccesses, Command.toInstr] at hrow

/-- An access other than a CMD write leaves the content. -/
theorem exec_access_keeps_buf {a : Access} {i : Instr} {s t : State} (hdecode : decodeAccess a = .ok i)
    (hcmd : ∀ w, i ≠ .wrCmd w) (h : exec i s = .next t) : t.buf = s.buf := by
  obtain ⟨b, rfl, -⟩ | ⟨c, hperforms, -⟩ | ⟨w, hw, -⟩ | haccess := exec_next_cases h
  · exact absurd hdecode (decodeAccess_ne_push a b)
  · obtain rfl | ⟨w, hw, -⟩ := hperforms
    · exact absurd hdecode (decodeAccess_ne_toInstr a c)
    · exact absurd hw (hcmd w)
  · exact absurd hw (hcmd w)
  · rw [haccess]

/-- An access takes what `removedByNext` counts from the head, and no more than is held. -/
theorem exec_access_buf {a : Access} {i : Instr} {s t : State} {rest : List Event}
    (hpending : s.pending = .access a :: rest) (hreset : s.inReset = false) (hdecode : decodeAccess a = .ok i)
    (h : exec i { s with pending := rest } = .next t) :
    removedByNext s ≤ s.buf.length ∧ t.buf = s.buf.drop (removedByNext s) := by
  have hfetch := fetch_of_access hpending hreset hdecode
  by_cases hcmd : ∀ w, i ≠ .wrCmd w
  · have hzero : removedByNext s = 0 := removedByNext_of_fetch_ne fun w u hrun => by
      rw [hfetch] at hrun
      cases hrun
      exact hcmd w rfl
    rw [hzero, exec_access_keeps_buf hdecode hcmd h]
    exact ⟨Nat.zero_le _, rfl⟩
  · obtain ⟨w, hw⟩ := not_forall.mp hcmd
    obtain rfl := not_not.mp hw
    cases hdec : decodeCommand w with
    | ok c =>
      have hremoved : removedByNext s = removedByCommand c { s with pending := rest } := by
        simp only [removedByNext, hfetch, hdec]
      rw [exec_wrCmd_of_ok hdec, exec_toInstr] at h
      rw [hremoved]
      exact ⟨removedByCommand_le c { s with pending := rest }, runCommand_buf h⟩
    | error e =>
      have hremoved : removedByNext s = 0 := by simp only [removedByNext, hfetch, hdec]
      rw [exec_wrCmd_of_error hdec] at h
      obtain rfl := Host.Outcome.next.inj h
      rw [hremoved]
      exact ⟨Nat.zero_le _, rfl⟩

/-! ## One step -/

theorem producerBytes_append (es es' : List Event) :
    producerBytes (es ++ es') = producerBytes es ++ producerBytes es' := List.filterMap_append ..

theorem head_not_clearing {s : State} {e : Event} {rest : List Event} (hpending : s.pending = e :: rest)
    (hclear : ∀ e ∈ s.pending.take 1, e.clearsOverflow = false) : e.clearsOverflow = false :=
  hclear e (by rw [hpending]; exact List.mem_cons_self ..)

/-- A step on an operation that cannot clear OVF stays outside reset and takes the operation. -/
theorem step_of_not_clearing {s u : State} (hreset : s.inReset = false)
    (hclear : ∀ e ∈ s.pending.take 1, e.clearsOverflow = false) (h : step s = .next u) :
    u.inReset = false ∧ u.pending = s.pending.drop 1 := by
  obtain ⟨hpending, rfl⟩ | ⟨rest, hpending, rfl⟩ | ⟨rest, hpending, rfl⟩ | ⟨b, rest, hpending, -, rfl⟩ |
    ⟨b, rest, hpending, -, hexec⟩ | ⟨a, i, rest, hpending, -, -, hexec⟩ := step_next_cases h
  · exact ⟨hreset, by rw [hpending]; rfl⟩
  · exact absurd (head_not_clearing hpending hclear) (by decide)
  · exact ⟨rfl, by rw [hpending]; rfl⟩
  · exact ⟨hreset, by rw [hpending]; rfl⟩
  · exact ⟨(exec_keeps_inReset hexec).trans hreset, by rw [exec_keeps_pending hexec, hpending]; rfl⟩
  · exact ⟨(exec_keeps_inReset hexec).trans hreset, by rw [exec_keeps_pending hexec, hpending]; rfl⟩

/-- Such a step that ends with OVF = 0 started with OVF = 0. -/
theorem ovf_of_not_clearing {s u : State} (hclear : ∀ e ∈ s.pending.take 1, e.clearsOverflow = false)
    (h : step s = .next u) (hovf : u.ovf = false) : s.ovf = false := by
  obtain hkept | ⟨hset, -⟩ | ⟨-, ⟨rest, hpending⟩ | ⟨a, rest, hpending, hwrite, hoff, hbit⟩⟩ := step_ovf_cases h
  · exact hkept.symm.trans hovf
  · exact absurd (hset.symm.trans hovf) (by decide)
  · exact absurd (head_not_clearing hpending hclear) (by decide)
  · have hclears : Event.clearsOverflow (.access a) = true := by
      rw [Event.clearsOverflow, hwrite, hoff, hbit]
      rfl
    exact absurd (hclears.symm.trans (head_not_clearing hpending hclear)) (by decide)

/-- A byte that leaves OVF = 0 has found room. -/
theorem buf_receive_of_ovf_eq_false {s : State} {b : Byte} (h : (s.receive b).ovf = false) :
    (s.receive b).buf = s.buf ++ [b] := by
  obtain hroom | hfull := Nat.lt_or_ge s.buf.length s.cap
  · rw [s.receive_of_room b hroom]
  · rw [s.receive_of_full b hfull] at h
    cases h

/-- Such a step adds the byte pushed at the end of the content and takes the bytes removed from its head. -/
theorem buf_of_not_clearing {s u : State} (hreset : s.inReset = false)
    (hclear : ∀ e ∈ s.pending.take 1, e.clearsOverflow = false) (h : step s = .next u) (hovf : u.ovf = false) :
    removedByNext s ≤ s.buf.length ∧
      u.buf = (s.buf ++ producerBytes (s.pending.take 1)).drop (removedByNext s) := by
  have hkept (hfetch : ∀ w t, fetch s ≠ .run (.wrCmd w) t) (hbuf : u.buf = s.buf ++ producerBytes (s.pending.take 1)) :
      removedByNext s ≤ s.buf.length ∧
        u.buf = (s.buf ++ producerBytes (s.pending.take 1)).drop (removedByNext s) := by
    rw [removedByNext_of_fetch_ne hfetch]
    exact ⟨Nat.zero_le _, hbuf⟩
  obtain ⟨hpending, rfl⟩ | ⟨rest, hpending, rfl⟩ | ⟨rest, hpending, rfl⟩ | ⟨b, rest, hpending, hheld, rfl⟩ |
    ⟨b, rest, hpending, -, hexec⟩ | ⟨a, i, rest, hpending, -, hdecode, hexec⟩ := step_next_cases h
  · refine hkept (by simp [fetch, hpending]) ?_
    rw [hpending]
    exact (List.append_nil _).symm
  · exact absurd (head_not_clearing hpending hclear) (by decide)
  · refine hkept (by simp [fetch, fetchEvent, hpending]) ?_
    rw [hpending]
    exact (List.append_nil _).symm
  · exact absurd (hheld.symm.trans hreset) (by decide)
  · refine hkept (by simp [fetch, fetchEvent, hpending, hreset]) ?_
    rw [← Host.Outcome.next.inj hexec] at hovf ⊢
    rw [hpending]
    exact buf_receive_of_ovf_eq_false hovf
  · obtain ⟨hle, hbuf⟩ := exec_access_buf hpending hreset hdecode hexec
    refine ⟨hle, ?_⟩
    rw [hbuf, hpending]
    exact congrArg (List.drop _) (List.append_nil _).symm

/-! ## The run -/

theorem removedIn_succ_of_next {n : Nat} {s u : State} (h : step s = .next u) :
    removedIn (n + 1) s = removedByNext s + removedIn n u := by
  rw [removedIn, h]

/-- In a run that nothing clears OVF in and that ends with OVF = 0, OVF was 0 throughout. -/
theorem run_without_overflow {n : Nat} {s t : State} (hreset : s.inReset = false)
    (hclear : ∀ e ∈ s.pending.take n, e.clearsOverflow = false) (hrun : runSteps n s = .next t) (hovf : t.ovf = false) :
    (∀ k ≤ n, ∀ u, runSteps k s = .next u → u.ovf = false) ∧
      t.buf = (s.buf ++ producerBytes (s.pending.take n)).drop (removedIn n s) := by
  induction n generalizing s with
  | zero =>
    obtain rfl : s = t := Host.Outcome.next.inj hrun
    refine ⟨fun k hk u hu => ?_, (List.append_nil _).symm⟩
    obtain rfl := Nat.le_zero.mp hk
    obtain rfl : s = u := Host.Outcome.next.inj hu
    exact hovf
  | succ n ih =>
    obtain ⟨u, hstep, hrest⟩ := runSteps_succ_cases hrun
    have hsplit : s.pending.take (n + 1) = s.pending.take 1 ++ (s.pending.drop 1).take n := by
      rw [Nat.add_comm, List.take_add]
    simp only [hsplit, List.mem_append] at hclear
    have hfirst : ∀ e ∈ s.pending.take 1, e.clearsOverflow = false := fun e he => hclear e (.inl he)
    obtain ⟨hureset, hupending⟩ := step_of_not_clearing hreset hfirst hstep
    obtain ⟨hall, hbuf⟩ := ih hureset (fun e he => hclear e (.inr (hupending ▸ he))) hrest
    have huovf : u.ovf = false := hall 0 (Nat.zero_le n) u rfl
    obtain ⟨hle, hubuf⟩ := buf_of_not_clearing hreset hfirst hstep huovf
    constructor
    · intro k hk v hv
      cases k with
      | zero =>
        obtain rfl : s = v := Host.Outcome.next.inj hv
        exact ovf_of_not_clearing hfirst hstep huovf
      | succ k =>
        rw [runSteps_succ_of_next k s u hstep] at hv
        exact hall k (Nat.le_of_succ_le_succ hk) v hv
    · have htake (later : List Byte) : (s.buf ++ producerBytes (s.pending.take 1) ++ later).drop (removedByNext s) =
          (s.buf ++ producerBytes (s.pending.take 1)).drop (removedByNext s) ++ later :=
        List.drop_append_of_le_length (by rw [List.length_append]; omega)
      rw [hbuf, hubuf, hupending, hsplit, producerBytes_append, removedIn_succ_of_next hstep, ← List.drop_drop,
        ← List.append_assoc, htake]

/-- Settles O56: what is left of the old content stands before the bytes pushed since. -/
theorem contentIsStreamWithoutOverflow : Obligations.ContentIsStreamWithoutOverflow := by
  unfold Obligations.ContentIsStreamWithoutOverflow
  intro n s t hreset hclear hrun hovf
  obtain ⟨hall, hbuf⟩ := run_without_overflow hreset hclear hrun hovf
  refine ⟨hall, hbuf, ?_, fun i hi hlt => ?_⟩
  · rw [hbuf, List.drop_append]
    exact ⟨_, rfl⟩
  · rw [hbuf, List.getElem?_drop, Nat.add_sub_cancel' hi, List.getElem?_append_left hlt]

end Sys2Proof.Machine
end
